-- ==== Sys2Proof/Word.lean ====
section
/-! DEFINITION. The widths, the five encoding formats and the plain data records that operands carry
(spec 00 R10, 10 R31 to R37, 30 R100). -/

namespace Sys2Proof

/-- `u8` of 00 R10. -/
abbrev Byte := BitVec 8

/-- `u16` of 00 R10. -/
abbrev Half := BitVec 16

/-- `u32` of 00 R10. -/
abbrev Long := BitVec 32

/-- The channels on which an encoded thing arrives (30 R100). One byte value can mean different things
on different channels, so an encoding is read together with its format (log 2). -/
inductive Format where
  /-- operation ids, 30 R132 -/
  | op
  /-- resource record headers `SMALL` and `LARGE`, 30 R108 and R109 -/
  | resource
  /-- isolation samples, 30 R101 -/
  | sample
  /-- PnP card-register accesses, 30 R105 -/
  | pnp
  /-- NE2000 command bytes, 30 R124 -/
  | ne
  deriving DecidableEq, Repr

/-- One line of a program (30 R131): an encoded operation and the format it is written in. -/
structure Line where
  fmt : Format
  bytes : List Byte
  deriving DecidableEq, Repr

/-- The two header forms of a resource record (30 R108, R109). -/
inductive RecForm where
  | small
  | large
  deriving DecidableEq, Repr

/-- A register page of the NE2000 (10 R44, R47). -/
inductive RegPage where
  | p0
  | p1
  | p2
  deriving DecidableEq, Repr

/-- Three characters of a vendor string (10 R31). -/
structure Vendor where
  c0 : Byte
  c1 : Byte
  c2 : Byte
  deriving DecidableEq, Repr, Inhabited

/-- A device id: vendor string and product id (10 R33). -/
structure DevId where
  vendor : Vendor
  product : Half
  deriving DecidableEq, Repr, Inhabited

/-- Six bytes of a MAC address, in wire order (10 R37). -/
structure Mac where
  m0 : Byte
  m1 : Byte
  m2 : Byte
  m3 : Byte
  m4 : Byte
  m5 : Byte
  deriving DecidableEq, Repr, Inhabited

/-- The address fields of a frame (30 R127). -/
structure EthHeader where
  dst : Mac
  src : Mac
  ethertype : Half
  deriving DecidableEq, Repr, Inhabited

/-- A complete Ethernet-II frame record with its payload buffer (10 R37). `record` and `buffer` are the
opaque heap handles of the two allocations (20 R75); the payload bytes travel with their owner (log 23). -/
structure Frame where
  record : Nat
  buffer : Nat
  eth : EthHeader
  length : Half
  payload : List Byte
  deriving DecidableEq, Repr, Inhabited

end Sys2Proof

namespace Sys2Proof.Machine

/-! ## The device table (10 R31 to R36) -/

/-- `io[k]`, an I/O-port-range resource (10 R34). -/
structure IoRange where
  info : Byte
  minBase : Half
  maxBase : Half
  align : Byte
  len : Byte
  cfgreg : Byte
  /-- `none` is the spec's `NONE`: the allocator has not assigned a base -/
  assigned : Option Half
  deriving DecidableEq, Repr, Inhabited

/-- `irq`, the IRQ-mask resource (10 R35). -/
structure IrqRes where
  mask : Half
  info : Byte
  cfgreg : Byte
  assigned : Option (BitVec 4)
  deriving DecidableEq, Repr, Inhabited

/-- `dma`, the DMA-channel mask (10 R36). -/
structure DmaRes where
  mask : Byte
  info : Byte
  deriving DecidableEq, Repr, Inhabited

/-- The two memory-range variants (10 R36). -/
inductive MemKind where
  | mem16
  | mem32
  deriving DecidableEq, Repr, Inhabited

/-- `mem[m]`, a memory-range resource kept raw (10 R36). -/
structure MemRange where
  kind : MemKind
  raw : List Byte
  deriving DecidableEq, Repr, Inhabited

/-- A dependent-function alternative set. No record of the spec forms one, so the type has no value and
`depcount` is always 0 (10 R36). -/
inductive DepSet where
  deriving DecidableEq, Repr

/-- `ld[j]`, a logical device (10 R33). The counts are the lengths of the lists. -/
structure LogicalDevice where
  id : DevId
  flags : Byte
  compat : List DevId
  ident : Option (List Byte)
  mem : List MemRange
  io : List IoRange
  dma : Option DmaRes
  irq : Option IrqRes
  dep : List DepSet
  active : Bool
  deriving DecidableEq, Repr, Inhabited

/-- `crd`, the Card Resource Data of one card (10 R32). `ldcount` is the length of `lds`. -/
structure Crd where
  version : Byte
  vendorVersion : Byte
  /-- empty if no ANSI string came before the first logical device (log 37) -/
  ident : List Byte
  lds : List LogicalDevice
  valid : Bool
  deriving DecidableEq, Repr, Inhabited

/-- `DEV[i]`, one detected card (10 R31). -/
structure Device where
  vendor : Vendor
  product : Half
  serial : Long
  csn : Byte
  crd : Crd
  deriving DecidableEq, Repr, Inhabited

/-- An entry that is being filled: the rules write the fields of the entry at a count first, each in a line of its own,
and count it then (40 R155, 41 R174, R175, R178, R181). -/
inductive Entry where
  /-- `DEV[DEVCOUNT]` -/
  | device (d : Device)
  /-- `crd.ld[ldcount]` -/
  | ld (l : LogicalDevice)
  /-- `ld.compat[compatcount]` -/
  | compat (c : DevId)
  /-- `ld.mem[memcount]` -/
  | mem (m : MemRange)
  /-- `ld.io[iocount]` -/
  | io (d : IoRange)
  deriving DecidableEq, Repr

end Sys2Proof.Machine
end

