-- ==== Sys2Proof/Config.lean ====
section
/-! DEFINITION. What is fixed for the machine: the parameters the source fixes (00 R8), the open parameters with
their defaults (00 R9), the register, tag, offset and command numbers among them (10 R40 to R49, 30 R110), and the
free values, which have no body (log 4, 9, 18, 21). -/

namespace Sys2Proof.Config

/-! Parameters the source fixes (00 R8). -/

def lfsrSeed : Byte := 0x6A
def keyLen : Nat := 32
def idBits : Nat := 72
def sampleOne : Half := 0xAA55
def sampleZero : Half := 0xFFFF
def pnpAddressPort : Half := 0x279
def pnpWritePort : Half := 0xA79
def rdpFirst : Half := 0x203
def rdpCandidates : Nat := 128
def devCap : Nat := 10
def ldCap : Nat := 4
def compatCap : Nat := 10
def ioCap : Nat := 8
def memCap : Nat := 4
def depCap : Nat := 4
def ioCfgBase : Byte := 0x60
def irqCfgBase : Byte := 0x70
def ioFloor : Nat := 0x280
def ioFloat : Byte := 0xFF
def irqChoice : Nat := 5
/-- `NE_VENDOR`, `NE_PRODUCT`: "PNP" and 0x80D6. -/
def neIdentity : DevId := ⟨⟨0x50, 0x4E, 0x50⟩, 0x80D6⟩
def promLen : Nat := 32
def macLen : Nat := 6
def runtMin : Half := 64
def frameOverhead : Half := 18
def eth2Threshold : Half := 0x0600
def hdrLen : Half := 4

/-! Free values: nothing constrains them (log 4). Each is applied to the counter of values drawn, so that
every draw is a fresh value. -/

/-- What a port read returns (93 U5, U9). -/
opaque portValue : Nat → BitVec 16
/-- Whether `allocate` succeeds (93 U23). -/
opaque allocOk : Nat → Bool
/-- Whether the NIC's request line is asserted (60 R301). -/
opaque lineAsserted : Nat → Bool
/-- How many step boundaries pass before a deliverable request is taken (60 R301). -/
opaque irqDelay : Nat → Nat
/-- `IRQ_VECTOR`, open (00 R9). -/
opaque irqVector : Nat
/-- `FRAME_REC_SIZE`, open (00 R9). -/
opaque frameRecSize : Nat
/-- What an entry of the device table that is not in use holds (10 R31 states nothing of it; log 18). -/
opaque unusedDevice : Nat → Machine.Device
/-- What a logical device at or beyond `ldcount` holds (10 R32; log 18). -/
opaque unusedLd : Nat → Machine.LogicalDevice
/-- What an I/O range at or beyond `iocount` holds (10 R33; log 18). -/
opaque unusedIo : Nat → Machine.IoRange
/-- What `IOBASE <- NONE` leaves in `IOBASE` (43 R231 states no result; log 21). -/
opaque unassignedBase : Nat → BitVec 16
/-- What the fields of `FR` hold while it is `NONE`, and its addresses before `RX.ADDR` has read them (44 R265 to R268
state no result; log 46). -/
opaque unfilledFrame : Nat → Frame

end Sys2Proof.Config

namespace Sys2Proof

/-- `MEM_RECORDS` (00 R9, D12). -/
inductive MemRecords where
  | reject
  | storeRaw
  deriving DecidableEq, Repr

/-- The numbered parameters of 00 R9: card registers, record tags, NE2000 offsets, bit positions and command bytes. -/
structure Numbers where
  /-- `PNP_REG_*`, 10 R40. -/
  setRdData : Byte
  serialIsolation : Byte
  configControl : Byte
  wake : Byte
  resourceData : Byte
  status : Byte
  csn : Byte
  logicalDevice : Byte
  activate : Byte
  ioRangeCheck : Byte
  /-- `TAG_*`, 30 R110: four bits for a small tag, the whole header byte for a large one. -/
  tagVersion : Byte
  tagLogdev : Byte
  tagCompat : Byte
  tagIrq : Byte
  tagDma : Byte
  tagIoport : Byte
  tagEnd : Byte
  tagMem : Byte
  tagAnsi : Byte
  tagMem32 : Byte
  /-- `NE_*`, 10 R44 to R48; `PAR1..5` and `MAR1..7` follow `PAR0` and `MAR0` (43 R235). -/
  neCr : Half
  nePstart : Half
  nePstop : Half
  neBnry : Half
  neTpsr : Half
  neTbcr0 : Half
  neTbcr1 : Half
  neIsr : Half
  neRsar0 : Half
  neRsar1 : Half
  neRbcr0 : Half
  neRbcr1 : Half
  neRcr : Half
  neTcr : Half
  neDcr : Half
  neImr : Half
  nePar0 : Half
  neCurr : Half
  neMar0 : Half
  neData : Half
  neReset : Half
  /-- `CMD_*`, 10 R44. -/
  cmdStop : Byte
  cmdStart : Byte
  cmdRread : Byte
  cmdNodma : Byte
  /-- Bit positions of 10 R44 and R49; `crRd` and `crPs` are the low bits of their fields. -/
  crStp : Nat
  crSta : Nat
  crRd : Nat
  crPs : Nat
  isrPrx : Nat
  isrRdc : Nat
  isrRst : Nat
  deriving DecidableEq, Repr

/-- The defaults of 10 R40, R44 to R49 and 30 R110: the spec's general knowledge, but for the two fixed families
0x60 and 0x70 (log 9). -/
def Numbers.default : Numbers where
  setRdData := 0x00
  serialIsolation := 0x01
  configControl := 0x02
  wake := 0x03
  resourceData := 0x04
  status := 0x05
  csn := 0x06
  logicalDevice := 0x07
  activate := 0x30
  ioRangeCheck := 0x31
  tagVersion := 0x1
  tagLogdev := 0x2
  tagCompat := 0x3
  tagIrq := 0x4
  tagDma := 0x5
  tagIoport := 0x8
  tagEnd := 0xF
  tagMem := 0x81
  tagAnsi := 0x82
  tagMem32 := 0x85
  neCr := 0x00
  nePstart := 0x01
  nePstop := 0x02
  neBnry := 0x03
  neTpsr := 0x04
  neTbcr0 := 0x05
  neTbcr1 := 0x06
  neIsr := 0x07
  neRsar0 := 0x08
  neRsar1 := 0x09
  neRbcr0 := 0x0A
  neRbcr1 := 0x0B
  neRcr := 0x0C
  neTcr := 0x0D
  neDcr := 0x0E
  neImr := 0x0F
  nePar0 := 0x01
  neCurr := 0x07
  neMar0 := 0x08
  neData := 0x10
  neReset := 0x1F
  cmdStop := 0x21
  cmdStart := 0x22
  cmdRread := 0x0A
  cmdNodma := 0x22
  crStp := 0
  crSta := 1
  crRd := 3
  crPs := 6
  isrPrx := 0
  isrRdc := 6
  isrRst := 7

/-- The open parameters of 00 R9. A run keeps them constant. -/
structure Params where
  /-- `PNP_REG_*`, `TAG_*`, `NE_*`, `CMD_*` -/
  num : Numbers
  ringStart : Byte
  ringStop : Byte
  keyPreamble : Nat
  cfgStep : Byte
  probePasses : Nat
  memRecords : MemRecords
  lenMismatchFatal : Bool
  /-- `none` is "unbounded" -/
  ansiMax : Option Nat
  irqVector : Nat
  frameRecSize : Nat
  dcrInit : Byte
  dcrRun : Byte
  rcrInit : Byte
  tcrInit : Byte
  tcrRun : Byte
  imrInit : Byte
  deriving DecidableEq, Repr

/-- The defaults of 00 R9. -/
def Params.default : Params where
  num := .default
  ringStart := 0x40
  ringStop := 0x80
  keyPreamble := 2
  cfgStep := 2
  probePasses := 2
  memRecords := .reject
  lenMismatchFatal := false
  ansiMax := none
  irqVector := Config.irqVector
  frameRecSize := Config.frameRecSize
  dcrInit := 0x41
  dcrRun := 0x49
  rcrInit := 0x04
  tcrInit := 0x02
  tcrRun := 0x00
  imrInit := 0x01

/-- The constraints of 00 R9 and 93 U21: the ring is not empty, the probe reads each port more than once, and
eight I/O ranges do not run into the IRQ registers (log 27). -/
def Params.ok (p : Params) : Bool :=
  decide (p.ringStart.toNat < p.ringStop.toNat) && decide (2 ≤ p.probePasses) && decide (8 * p.cfgStep.toNat ≤ 0x10)

end Sys2Proof
end

