-- ==== Sys2Proof/Machine/Bytes.lean ====
section
/-! DEFINITION. Byte order and bit fields (00 R10, 20 R76, 30 R103, R104, R108). -/

namespace Sys2Proof.Machine

/-- `v[7:0]` (00 R10). -/
def lo (v : Half) : Byte := v.setWidth 8

/-- `v[15:8]` (00 R10). -/
def hi (v : Half) : Byte := (v >>> 8).setWidth 8

/-- `h:l`, the concatenation of two bytes (00 R10). -/
def pair (h l : Byte) : Half := h ++ l

/-- The six bytes of a MAC address in wire order. -/
def macBytes (m : Mac) : List Byte := [m.m0, m.m1, m.m2, m.m3, m.m4, m.m5]

/-- Three FIFO words as a MAC address, the low byte of each first (20 R76, 30 R127). -/
def macOfWords (a b c : Half) : Mac := ⟨lo a, hi a, lo b, hi b, lo c, hi c⟩

/-- A register page's number (10 R44). -/
def pageNumber : RegPage → Byte
  | .p0 => 0
  | .p1 => 1
  | .p2 => 2

/-- The bits of a register page in the `PS` field of `CR` (10 R44). -/
def pageBits (m : Numbers) (p : RegPage) : Byte := pageNumber p <<< m.crPs

/-- The bits of `CR` below the page select: `0x3F` by default (43 R221). -/
def cmdMask (m : Numbers) : Byte := ~~~(3 <<< m.crPs)

/-- The command byte of a bare page select: start and stop bits of `v` kept, no remote DMA, the page. By default
`(v and 0x03) or 0x20 or (p << 6)` (43 R220, 30 R124). -/
def pageCommand (m : Numbers) (v : Byte) (p : RegPage) : Byte :=
  (v &&& ((1 <<< m.crStp) ||| (1 <<< m.crSta))) ||| (4 <<< m.crRd) ||| pageBits m p

/-- The tag of a small record header, bits [6:3] (30 R108). -/
def smallTag (h : Byte) : Byte := (h >>> 3) &&& 0x0F

/-- The length of a small record, bits [2:0] (30 R108). -/
def smallLen (h : Byte) : BitVec 3 := h.setWidth 3

/-- The header byte of a small record (30 R108). -/
def smallHeader (tag : Byte) (len : BitVec 3) : Byte := (tag <<< 3) ||| len.setWidth 8

/-- Whether a header byte is a large record's: bit 7 set (30 R109, R130). -/
def isLarge (h : Byte) : Bool := h.getLsbD 7

/-- Three characters from two bytes of compressed vendor string (30 R104). -/
def decodeVendor (b0 b1 : Byte) : Vendor :=
  ⟨0x40 + ((b0 >>> 2) &&& 0x1F),
   0x40 + (((b0 &&& 0x03) <<< 3) ||| (b1 >>> 5)),
   0x40 + (b1 &&& 0x1F)⟩

/-- A 32-bit device id of four record bytes (30 R112). -/
def decodeDevId (b0 b1 b2 b3 : Byte) : DevId := ⟨decodeVendor b0 b1, pair b2 b3⟩

/-- Whether `p` is one of the 128 read-port candidates `0x203 + 4*k` (10 R23). -/
def isCandidate (p : Half) : Bool :=
  decide (0x203 ≤ p.toNat) && decide (p.toNat ≤ 0x3FF) && decide (p.toNat % 4 = 3)

/-- The read-port candidate number `k` (40 R156). -/
def candidate (k : Nat) : Half := Config.rdpFirst + BitVec.ofNat 16 (4 * k)

/-- The data byte of a set-read-port write, `p[9:2]` (30 R106). -/
def rdpByte (p : Half) : Byte := (p >>> 2).setWidth 8

/-- The read-port address whose bits [9:2] are `v` and whose low bits are `11` (30 R106). -/
def rdpOfByte (v : Byte) : Half := (v.setWidth 16 <<< 2) ||| 3

/-- `roundup2(x) = (x + 1) and 0xFFFE` in 17 bits (44 R265). -/
def roundup2 (x : Half) : Half := ((x.setWidth 17 + 1) &&& 0xFFFE).setWidth 16

/-- Byte `i` of the 72-bit identifier; the first bit received is bit 0 of `ID[0]` (30 R103). -/
def idByte (id : BitVec 72) (i : Nat) : Byte := (id >>> (8 * i)).setWidth 8

/-- `ID[k div 8][k mod 8] <- b` (30 R103, 40 R150). -/
def idSetBit (id : BitVec 72) (k : Nat) (b : Bool) : BitVec 72 :=
  (id &&& ~~~(1#72 <<< k)) ||| ((BitVec.ofBool b).setWidth 72 <<< k)

/-- `LFSR.SHIFT r, b -> r'` (40 R140): the input bit xor bits 0 and 1 becomes the new bit 7. -/
def lfsrShift (r : Byte) (b : Bool) : Byte :=
  BitVec.ofBool (b ^^ r.getLsbD 0 ^^ r.getLsbD 1) ++ r.extractLsb' 1 7

end Sys2Proof.Machine
end

