-- ==== Sys2Proof/Syntax.lean ====
section
/-! DEFINITION. The instructions: one constructor per row of the opcode table, 80 operations of format `OP`
(30 R132) and 40 data encodings (30 R101 to R124). Operands stand in the order of each rule's Operands line
(30 R131). -/

namespace Sys2Proof

/-- What the engine can be asked to do. Table operands `desc` and `ld` are given as the indexes of the device
(`i`), logical device (`j`) and I/O range (`k`) that hold them (log 18). -/
inductive Instr where
  /-- `LFSR.SHIFT`, 40 R140 -/
  | lfsrShift (r : Byte) (b : Bool)
  /-- `KEY.SEND`, 40 R141 -/
  | keySend
  /-- `PNP.ADDR`, 40 R142 -/
  | pnpAddr (reg : Byte)
  /-- `PNP.WR`, 40 R143 -/
  | pnpWr (reg v : Byte)
  /-- `PNP.RD`, 40 R144 -/
  | pnpRd (reg : Byte)
  /-- `PNP.WAKE`, 40 R145 -/
  | pnpWake (csn : Byte)
  /-- `PNP.SETRDP`, 40 R146 -/
  | pnpSetrdp (p : Half)
  /-- `PNP.ISOSEL`, 40 R147 -/
  | pnpIsosel
  /-- `PNP.SETCSN`, 40 R148 -/
  | pnpSetcsn (n : Byte)
  /-- `ID.SAMPLE`, 40 R149 -/
  | idSample
  /-- `ID.READ`, 40 R150 -/
  | idRead
  /-- `ID.DECODE`, 40 R151 -/
  | idDecode
  /-- `ISO.ROUND`, 40 R155 -/
  | isoRound (first : Bool)
  /-- `ISO.ENUM`, 40 R156 -/
  | isoEnum
  /-- `PNP.ENGINE`, 40 R157 -/
  | pnpEngine
  /-- `RD.BYTE`, 41 R170 -/
  | rdByte
  /-- `RD.HEADER`, 41 R171 -/
  | rdHeader
  /-- `RD.BODY`, 41 R172 -/
  | rdBody (len : Half)
  /-- `REC.VERSION`, 41 R173 -/
  | recVersion (body : List Byte)
  /-- `REC.LOGDEV`, 41 R174 -/
  | recLogdev (body : List Byte)
  /-- `REC.COMPAT`, 41 R175 -/
  | recCompat (body : List Byte)
  /-- `REC.IRQ`, 41 R176 -/
  | recIrq (body : List Byte)
  /-- `REC.DMA`, 41 R177 -/
  | recDma (body : List Byte)
  /-- `REC.IOPORT`, 41 R178 -/
  | recIoport (body : List Byte)
  /-- `REC.ANSI`, 41 R179 -/
  | recAnsi (body : List Byte)
  /-- `REC.END`, 41 R180 -/
  | recEnd (body : List Byte)
  /-- `REC.MEM`, 41 R181 -/
  | recMem (body : List Byte)
  /-- `REC.MEM32`, 41 R182 -/
  | recMem32 (body : List Byte)
  /-- `REC.UNKNOWN`, 41 R183 -/
  | recUnknown (form : RecForm) (tag : Byte)
  /-- `RD.DECODE`, 41 R184 -/
  | rdDecode (i : Byte)
  /-- `CFG.MATCH`, 42 R200 -/
  | cfgMatch (i j : Byte)
  /-- `CFG.SELECT`, 42 R201 -/
  | cfgSelect (i j : Byte)
  /-- `CFG.IO`, 42 R202 -/
  | cfgIo (i j k : Byte)
  /-- `CFG.PROBE`, 42 R203 -/
  | cfgProbe (base : Half) (len : Byte)
  /-- `CFG.IRQ`, 42 R204 -/
  | cfgIrq (i j : Byte)
  /-- `CFG.ACTIVATE`, 42 R205 -/
  | cfgActivate (i j : Byte)
  /-- `CFG.DEVICE`, 42 R206 -/
  | cfgDevice (i j : Byte)
  /-- `CFG.ALL`, 42 R207 -/
  | cfgAll
  /-- `NE.PAGE`, 43 R220 -/
  | nePage (p : Nat)
  /-- `NE.CMD`, 43 R221 -/
  | neCmd (cmd : Byte)
  /-- `NE.BNRY.WR`, 43 R222 -/
  | neBnryWr (v : Byte)
  /-- `NE.CURR.WR`, 43 R223 -/
  | neCurrWr (v : Byte)
  /-- `NE.RSAR`, 43 R224 -/
  | neRsar (addr : Half)
  /-- `NE.RBCR`, 43 R225 -/
  | neRbcr (count : Half)
  /-- `NE.RDMA.READ`, 43 R226 -/
  | neRdmaRead (addr count : Half)
  /-- `NE.FIFO.RD16`, 43 R227 -/
  | neFifoRd16
  /-- `NE.DMA.STOP`, 43 R228 -/
  | neDmaStop
  /-- `NE.REG.WR`, 43 R229 -/
  | neRegWr (reg v : Byte)
  /-- `NE.BNRY.RD`, 43 R222 -/
  | neBnryRd
  /-- `NE.CURR.RD`, 43 R223 -/
  | neCurrRd
  /-- `NE.REG.RD`, 43 R229 -/
  | neRegRd (reg : Byte)
  /-- `NE.FIFO.RD8`, 43 R227 -/
  | neFifoRd8
  /-- `NE.BIND`, 43 R231 -/
  | neBind
  /-- `NE.RESET`, 43 R232 -/
  | neReset
  /-- `NE.BASICINIT`, 43 R233 -/
  | neBasicinit
  /-- `NE.PROM`, 43 R234 -/
  | neProm
  /-- `NE.MAC`, 43 R235 -/
  | neMac
  /-- `NE.RING`, 43 R236 -/
  | neRing
  /-- `NE.START`, 43 R237 -/
  | neStart
  /-- `NE.IRQEN`, 43 R238 -/
  | neIrqen
  /-- `NE.HOOK`, 43 R239 -/
  | neHook
  /-- `NE.LBCLR`, 43 R240 -/
  | neLbclr
  /-- `NE.INIT`, 43 R241 -/
  | neInit
  /-- `RX.IRQ`, 44 R260 -/
  | rxIrq
  /-- `RX.PENDING`, 44 R261 -/
  | rxPending
  /-- `RX.HDR`, 44 R262 -/
  | rxHdr
  /-- `RX.RUNT`, 44 R263 -/
  | rxRunt
  /-- `RX.ALLOC`, 44 R264 -/
  | rxAlloc
  /-- `RX.ADDR`, 44 R265 -/
  | rxAddr
  /-- `RX.CLASSIFY`, 44 R266 -/
  | rxClassify
  /-- `RX.PAYLOAD`, 44 R267 -/
  | rxPayload
  /-- `RX.DROP`, 44 R268 -/
  | rxDrop
  /-- `RX.ADVANCE`, 44 R269 -/
  | rxAdvance
  /-- `RX.FRAME`, 44 R270 -/
  | rxFrame
  /-- `RX.ACK`, 44 R271 -/
  | rxAck
  /-- `Q.GUARD`, 45 R280 -/
  | qGuard (body : List Line)
  /-- `Q.ENQ`, 45 R281 -/
  | qEnq (f : Frame)
  /-- `Q.DEQ`, 45 R282 -/
  | qDeq
  /-- `Q.SIZE`, 45 R283 -/
  | qSize
  /-- `Q.WAIT`, 45 R284 -/
  | qWait
  /-- `TAG_VERSION`, 30 R108, R110; 41 R173 -/
  | tagVersion (len : BitVec 3)
  /-- `TAG_LOGDEV`, 30 R108, R110; 41 R174 -/
  | tagLogdev (len : BitVec 3)
  /-- `TAG_COMPAT`, 30 R108, R110; 41 R175 -/
  | tagCompat (len : BitVec 3)
  /-- `TAG_IRQ`, 30 R108, R110; 41 R176 -/
  | tagIrq (len : BitVec 3)
  /-- `TAG_DMA`, 30 R108, R110; 41 R177 -/
  | tagDma (len : BitVec 3)
  /-- `TAG_IOPORT`, 30 R108, R110; 41 R178 -/
  | tagIoport (len : BitVec 3)
  /-- `TAG_END`, 30 R108, R110; 41 R180 -/
  | tagEnd (len : BitVec 3)
  /-- `SMALL_UNKNOWN_0`, 30 R121; 41 R183 -/
  | smallUnknown0 (len : BitVec 3)
  /-- `SMALL_UNKNOWN_6`, 30 R121; 41 R183 -/
  | smallUnknown6 (len : BitVec 3)
  /-- `SMALL_UNKNOWN_7`, 30 R121; 41 R183 -/
  | smallUnknown7 (len : BitVec 3)
  /-- `SMALL_UNKNOWN_9`, 30 R121; 41 R183 -/
  | smallUnknown9 (len : BitVec 3)
  /-- `SMALL_UNKNOWN_A`, 30 R121; 41 R183 -/
  | smallUnknownA (len : BitVec 3)
  /-- `SMALL_UNKNOWN_B`, 30 R121; 41 R183 -/
  | smallUnknownB (len : BitVec 3)
  /-- `SMALL_UNKNOWN_C`, 30 R121; 41 R183 -/
  | smallUnknownC (len : BitVec 3)
  /-- `SMALL_UNKNOWN_D`, 30 R121; 41 R183 -/
  | smallUnknownD (len : BitVec 3)
  /-- `SMALL_UNKNOWN_E`, 30 R121; 41 R183 -/
  | smallUnknownE (len : BitVec 3)
  /-- `TAG_MEM`, 30 R109, R110; 41 R181 -/
  | tagMem (len : Half)
  /-- `TAG_ANSI`, 30 R109, R110; 41 R179 -/
  | tagAnsi (len : Half)
  /-- `TAG_MEM32`, 30 R109, R110; 41 R182 -/
  | tagMem32 (len : Half)
  /-- `LARGE_UNKNOWN`, 30 R121; 41 R183 -/
  | largeUnknown (tag : Byte) (len : Half)
  /-- `SAMPLE_ONE`, 30 R101 -/
  | sampleOne
  /-- `SAMPLE_ZERO`, 30 R101 -/
  | sampleZero
  /-- `SAMPLE_NOCARD`, 30 R101 -/
  | sampleNocard (sample : Half)
  /-- `PNP_REG_SET_RD_DATA`, 30 R105, R106; 40 R146 -/
  | pnpRegSetRdData (v : Byte)
  /-- `PNP_REG_SERIAL_ISOLATION`, 30 R105; 10 R40 -/
  | pnpRegSerialIsolation
  /-- `PNP_REG_CONFIG_CONTROL`, 30 R105; 10 R40 -/
  | pnpRegConfigControl (v : Byte)
  /-- `PNP_REG_WAKE`, 30 R105; 40 R145 -/
  | pnpRegWake (v : Byte)
  /-- `PNP_REG_RESOURCE_DATA`, 30 R105; 10 R40 -/
  | pnpRegResourceData
  /-- `PNP_REG_STATUS`, 30 R105; 10 R40 -/
  | pnpRegStatus
  /-- `PNP_REG_CSN`, 30 R105; 40 R148 -/
  | pnpRegCsn (v : Byte)
  /-- `PNP_REG_LOGICAL_DEVICE`, 30 R105; 42 R201 -/
  | pnpRegLogicalDevice (v : Byte)
  /-- `PNP_REG_ACTIVATE`, 30 R105; 42 R205 -/
  | pnpRegActivate (v : Byte)
  /-- `PNP_REG_IO_RANGE_CHECK`, 30 R105; 42 R205 -/
  | pnpRegIoRangeCheck (v : Byte)
  /-- `PNP_REG_IO_BASE_HI`, 30 R122; 42 R202 -/
  | pnpRegIoBaseHi (k : BitVec 3) (v : Byte)
  /-- `PNP_REG_IO_BASE_LO`, 30 R122; 42 R202 -/
  | pnpRegIoBaseLo (k : BitVec 3) (v : Byte)
  /-- `PNP_REG_IRQ_LEVEL`, 30 R123; 42 R204 -/
  | pnpRegIrqLevel (v : Byte)
  /-- `PNP_REG_IRQ_TYPE`, 30 R123; 42 R204 -/
  | pnpRegIrqType (v : Byte)
  /-- `CMD_STOP`, 30 R124; 43 R221 -/
  | cmdStop (ps : BitVec 2)
  /-- `CMD_START`, 30 R124; 43 R221 -/
  | cmdStart (ps : BitVec 2)
  /-- `CMD_RREAD`, 30 R124; 43 R226 -/
  | cmdRread (ps : BitVec 2)
  deriving DecidableEq, Repr

end Sys2Proof
end

