-- ==== Sys2Proof/Decode.lean ====
section
/-! DEFINITION. Decoding and encoding, one pair of functions per format. The first byte of an operation is its id
(30 R132); the layout of its operands is the model's (log 1). Record headers, samples, card-register accesses and
command bytes are laid out as 30 R101 to R124 say. -/

namespace Sys2Proof

/-- Why bytes are no instruction of their format. -/
inductive DecodeError where
  /-- the bytes end before the instruction does -/
  | truncated
  /-- no row of this format has this first byte -/
  | unassigned (b : Byte)
  /-- a boolean operand byte other than 0 and 1 -/
  | badFlag (b : Byte)
  /-- a record-form operand byte other than 0 and 1 -/
  | badForm (b : Byte)
  /-- a line's format byte other than 0 to 4 -/
  | badFormat (b : Byte)
  deriving DecidableEq, Repr

/-- What a decoder answers: the instruction and the bytes after it, or why there is none. -/
abbrev Decoded := Except DecodeError (Instr × List Byte)

/-! Operand readers: each reads one operand off the front and hands it and the rest on. -/

def byteArg (r : List Byte) (k : Byte → List Byte → Decoded) : Decoded :=
  match r with
  | b :: r => k b r
  | [] => .error .truncated

def boolArg (r : List Byte) (k : Bool → List Byte → Decoded) : Decoded :=
  byteArg r fun b r => if b = 0 then k false r else if b = 1 then k true r else .error (.badFlag b)

def formArg (r : List Byte) (k : RecForm → List Byte → Decoded) : Decoded :=
  byteArg r fun b r => if b = 0 then k .small r else if b = 1 then k .large r else .error (.badForm b)

/-- A `u16`, low byte first. -/
def halfArg (r : List Byte) (k : Half → List Byte → Decoded) : Decoded :=
  match r with
  | l :: h :: r => k (Machine.pair h l) r
  | _ => .error .truncated

def natArg (r : List Byte) (k : Nat → List Byte → Decoded) : Decoded :=
  halfArg r fun v r => k v.toNat r

/-- A byte string: its length as a `u16`, then its bytes. -/
def bodyArg (r : List Byte) (k : List Byte → List Byte → Decoded) : Decoded :=
  halfArg r fun n r => if n.toNat ≤ r.length then k (r.take n.toNat) (r.drop n.toNat) else .error .truncated

def macArg (r : List Byte) (k : Mac → List Byte → Decoded) : Decoded :=
  match r with
  | a :: b :: c :: d :: e :: f :: r => k ⟨a, b, c, d, e, f⟩ r
  | _ => .error .truncated

/-- A frame: record handle, buffer handle, destination, source, Ethertype, payload. -/
def frameArg (r : List Byte) (k : Frame → List Byte → Decoded) : Decoded :=
  natArg r fun record r => natArg r fun buffer r => macArg r fun dst r => macArg r fun src r =>
    halfArg r fun et r => bodyArg r fun payload r =>
      k ⟨record, buffer, ⟨dst, src, et⟩, BitVec.ofNat 16 payload.length, payload⟩ r

/-- The format named by a line's format byte. -/
def formatOf (b : Byte) : Option Format :=
  if b = 0 then some .op else if b = 1 then some .resource else if b = 2 then some .sample
  else if b = 3 then some .pnp else if b = 4 then some .ne else none

/-- `n` program lines, each a format byte and a byte string. -/
def linesArg' (n : Nat) (r : List Byte) (k : List Line → List Byte → Decoded) : Decoded :=
  match n with
  | 0 => k [] r
  | n + 1 => byteArg r fun b r =>
      match formatOf b with
      | none => .error (.badFormat b)
      | some f => bodyArg r fun bytes r => linesArg' n r fun ls r => k (⟨f, bytes⟩ :: ls) r

/-- A list of program lines: their number as a `u16`, then the lines. -/
def linesArg (r : List Byte) (k : List Line → List Byte → Decoded) : Decoded :=
  halfArg r fun n r => linesArg' n.toNat r k

/-- The operation with id `id` and its operands (30 R132). -/
def decodeOp (id : Nat) (rest : List Byte) : Decoded :=
  match id with
  | 0x01 => byteArg rest fun r rest => boolArg rest fun b rest => .ok (.lfsrShift r b, rest)
  | 0x02 => .ok (.keySend, rest)
  | 0x03 => byteArg rest fun reg rest => .ok (.pnpAddr reg, rest)
  | 0x04 => byteArg rest fun reg rest => byteArg rest fun v rest => .ok (.pnpWr reg v, rest)
  | 0x05 => byteArg rest fun reg rest => .ok (.pnpRd reg, rest)
  | 0x06 => byteArg rest fun csn rest => .ok (.pnpWake csn, rest)
  | 0x07 => halfArg rest fun p rest => .ok (.pnpSetrdp p, rest)
  | 0x08 => .ok (.pnpIsosel, rest)
  | 0x09 => byteArg rest fun n rest => .ok (.pnpSetcsn n, rest)
  | 0x0A => .ok (.idSample, rest)
  | 0x0B => .ok (.idRead, rest)
  | 0x0C => .ok (.idDecode, rest)
  | 0x0D => boolArg rest fun first rest => .ok (.isoRound first, rest)
  | 0x0E => .ok (.isoEnum, rest)
  | 0x0F => .ok (.pnpEngine, rest)
  | 0x10 => .ok (.rdByte, rest)
  | 0x11 => .ok (.rdHeader, rest)
  | 0x12 => halfArg rest fun len rest => .ok (.rdBody len, rest)
  | 0x13 => bodyArg rest fun body rest => .ok (.recVersion body, rest)
  | 0x14 => bodyArg rest fun body rest => .ok (.recLogdev body, rest)
  | 0x15 => bodyArg rest fun body rest => .ok (.recCompat body, rest)
  | 0x16 => bodyArg rest fun body rest => .ok (.recIrq body, rest)
  | 0x17 => bodyArg rest fun body rest => .ok (.recDma body, rest)
  | 0x18 => bodyArg rest fun body rest => .ok (.recIoport body, rest)
  | 0x19 => bodyArg rest fun body rest => .ok (.recAnsi body, rest)
  | 0x1A => bodyArg rest fun body rest => .ok (.recEnd body, rest)
  | 0x1B => bodyArg rest fun body rest => .ok (.recMem body, rest)
  | 0x1C => bodyArg rest fun body rest => .ok (.recMem32 body, rest)
  | 0x1D => formArg rest fun form rest => byteArg rest fun tag rest => .ok (.recUnknown form tag, rest)
  | 0x1E => byteArg rest fun i rest => .ok (.rdDecode i, rest)
  | 0x20 => byteArg rest fun i rest => byteArg rest fun j rest => .ok (.cfgMatch i j, rest)
  | 0x21 => byteArg rest fun i rest => byteArg rest fun j rest => .ok (.cfgSelect i j, rest)
  | 0x22 => byteArg rest fun i rest => byteArg rest fun j rest => byteArg rest fun k rest => .ok (.cfgIo i j k, rest)
  | 0x23 => halfArg rest fun base rest => byteArg rest fun len rest => .ok (.cfgProbe base len, rest)
  | 0x24 => byteArg rest fun i rest => byteArg rest fun j rest => .ok (.cfgIrq i j, rest)
  | 0x25 => byteArg rest fun i rest => byteArg rest fun j rest => .ok (.cfgActivate i j, rest)
  | 0x26 => byteArg rest fun i rest => byteArg rest fun j rest => .ok (.cfgDevice i j, rest)
  | 0x27 => .ok (.cfgAll, rest)
  | 0x30 => natArg rest fun p rest => .ok (.nePage p, rest)
  | 0x31 => byteArg rest fun cmd rest => .ok (.neCmd cmd, rest)
  | 0x32 => byteArg rest fun v rest => .ok (.neBnryWr v, rest)
  | 0x33 => byteArg rest fun v rest => .ok (.neCurrWr v, rest)
  | 0x34 => halfArg rest fun addr rest => .ok (.neRsar addr, rest)
  | 0x35 => halfArg rest fun count rest => .ok (.neRbcr count, rest)
  | 0x36 => halfArg rest fun addr rest => halfArg rest fun count rest => .ok (.neRdmaRead addr count, rest)
  | 0x37 => .ok (.neFifoRd16, rest)
  | 0x38 => .ok (.neDmaStop, rest)
  | 0x39 => byteArg rest fun reg rest => byteArg rest fun v rest => .ok (.neRegWr reg v, rest)
  | 0x3A => .ok (.neBnryRd, rest)
  | 0x3B => .ok (.neCurrRd, rest)
  | 0x3C => byteArg rest fun reg rest => .ok (.neRegRd reg, rest)
  | 0x3D => .ok (.neFifoRd8, rest)
  | 0x40 => .ok (.neBind, rest)
  | 0x41 => .ok (.neReset, rest)
  | 0x42 => .ok (.neBasicinit, rest)
  | 0x43 => .ok (.neProm, rest)
  | 0x44 => .ok (.neMac, rest)
  | 0x45 => .ok (.neRing, rest)
  | 0x46 => .ok (.neStart, rest)
  | 0x47 => .ok (.neIrqen, rest)
  | 0x48 => .ok (.neHook, rest)
  | 0x49 => .ok (.neLbclr, rest)
  | 0x4A => .ok (.neInit, rest)
  | 0x50 => .ok (.rxIrq, rest)
  | 0x51 => .ok (.rxPending, rest)
  | 0x52 => .ok (.rxHdr, rest)
  | 0x53 => .ok (.rxRunt, rest)
  | 0x54 => .ok (.rxAlloc, rest)
  | 0x55 => .ok (.rxAddr, rest)
  | 0x56 => .ok (.rxClassify, rest)
  | 0x57 => .ok (.rxPayload, rest)
  | 0x58 => .ok (.rxDrop, rest)
  | 0x59 => .ok (.rxAdvance, rest)
  | 0x5A => .ok (.rxFrame, rest)
  | 0x5B => .ok (.rxAck, rest)
  | 0x60 => linesArg rest fun body rest => .ok (.qGuard body, rest)
  | 0x61 => frameArg rest fun f rest => .ok (.qEnq f, rest)
  | 0x62 => .ok (.qDeq, rest)
  | 0x63 => .ok (.qSize, rest)
  | 0x64 => .ok (.qWait, rest)
  | n => .error (.unassigned (BitVec.ofNat 8 n))

/-- The record a small header selects under the tag numbers `m` (30 R110): the lookup of 41 R184 on the small form.
A tag outside the map is unrecognised: a row of its own where the opcode table has one, else `REC.UNKNOWN`. -/
def smallRecord (m : Numbers) (tag : Byte) (len : BitVec 3) : Instr :=
  if tag = m.tagVersion then .tagVersion len
  else if tag = m.tagLogdev then .tagLogdev len
  else if tag = m.tagCompat then .tagCompat len
  else if tag = m.tagIrq then .tagIrq len
  else if tag = m.tagDma then .tagDma len
  else if tag = m.tagIoport then .tagIoport len
  else if tag = m.tagEnd then .tagEnd len
  else match tag.toNat with
  | 0x0 => .smallUnknown0 len
  | 0x6 => .smallUnknown6 len
  | 0x7 => .smallUnknown7 len
  | 0x9 => .smallUnknown9 len
  | 0xA => .smallUnknownA len
  | 0xB => .smallUnknownB len
  | 0xC => .smallUnknownC len
  | 0xD => .smallUnknownD len
  | 0xE => .smallUnknownE len
  | _ => .recUnknown .small tag

/-- The record a large header selects under the tag numbers `m` (30 R110): the lookup of 41 R184 on the large form. -/
def largeRecord (m : Numbers) (tag : Byte) (len : Half) : Instr :=
  if tag = m.tagMem then .tagMem len
  else if tag = m.tagAnsi then .tagAnsi len
  else if tag = m.tagMem32 then .tagMem32 len
  else .largeUnknown tag len

/-- `lookup(form, tag)` of 41 R184, with the record's length. -/
def recordInstr (m : Numbers) (form : RecForm) (tag : Byte) (len : Half) : Instr :=
  match form with
  | .small => smallRecord m tag (len.setWidth 3)
  | .large => largeRecord m tag len

/-- Formats `SMALL` and `LARGE` (30 R108, R109, R130): every header byte selects a record. -/
def decodeResource (m : Numbers) (r : List Byte) : Decoded :=
  byteArg r fun h r =>
    if Machine.isLarge h then halfArg r fun len r => .ok (largeRecord m h len, r)
    else .ok (smallRecord m (Machine.smallTag h) (Machine.smallLen h), r)

/-- The three meanings of a sample (30 R101). -/
def sampleInstr (v : Half) : Instr :=
  if v = Config.sampleOne then .sampleOne else if v = Config.sampleZero then .sampleZero else .sampleNocard v

/-- Format `SAMPLE` (30 R101): the first byte read is bits [7:0]. -/
def decodeSample (r : List Byte) : Decoded := halfArg r fun v r => .ok (sampleInstr v, r)

/-- A card-register write: its data byte follows. -/
def pnpWrite (k : Byte → Instr) (r : List Byte) : Decoded := byteArg r fun v r => .ok (k v, r)

/-- Format `PNPCMD` (30 R105): a register number, and a data byte where the access is a write (10 R40). -/
def decodePnp (m : Numbers) (r : List Byte) : Decoded :=
  byteArg r fun reg r =>
    if reg = m.setRdData then pnpWrite .pnpRegSetRdData r
    else if reg = m.serialIsolation then .ok (.pnpRegSerialIsolation, r)
    else if reg = m.configControl then pnpWrite .pnpRegConfigControl r
    else if reg = m.wake then pnpWrite .pnpRegWake r
    else if reg = m.resourceData then .ok (.pnpRegResourceData, r)
    else if reg = m.status then .ok (.pnpRegStatus, r)
    else if reg = m.csn then pnpWrite .pnpRegCsn r
    else if reg = m.logicalDevice then pnpWrite .pnpRegLogicalDevice r
    else if reg = m.activate then pnpWrite .pnpRegActivate r
    else if reg = m.ioRangeCheck then pnpWrite .pnpRegIoRangeCheck r
    else if reg = 0x70 then pnpWrite .pnpRegIrqLevel r
    else if reg = 0x71 then pnpWrite .pnpRegIrqType r
    else if reg &&& 0xF1 = 0x60 then pnpWrite (.pnpRegIoBaseHi ((reg >>> 1).setWidth 3)) r
    else if reg &&& 0xF1 = 0x61 then pnpWrite (.pnpRegIoBaseLo ((reg >>> 1).setWidth 3)) r
    else .error (.unassigned reg)

/-- Format `NECMD` (30 R124): the bits below the page select name the command, bits [7:6] the page left selected. -/
def decodeNe (m : Numbers) (r : List Byte) : Decoded :=
  byteArg r fun b r =>
    let ps : BitVec 2 := (b >>> m.crPs).setWidth 2
    if b &&& Machine.cmdMask m = m.cmdStop then .ok (.cmdStop ps, r)
    else if b &&& Machine.cmdMask m = m.cmdStart then .ok (.cmdStart ps, r)
    else if b &&& Machine.cmdMask m = m.cmdRread then .ok (.cmdRread ps, r)
    else .error (.unassigned b)

/-- The instruction that the bytes `r` of format `f` begin with under the numbers `m`, and the bytes after it. -/
def decodeAt (m : Numbers) (f : Format) (r : List Byte) : Decoded :=
  match f with
  | .op => byteArg r fun id r => decodeOp id.toNat r
  | .resource => decodeResource m r
  | .sample => decodeSample r
  | .pnp => decodePnp m r
  | .ne => decodeNe m r

/-- Decoding under the numbers of the opcode table, the defaults of 00 R9 (log 9). -/
def decode (f : Format) (r : List Byte) : Decoded := decodeAt .default f r

/-! ## Encoding -/

def boolByte (b : Bool) : Byte := if b then 1 else 0

def formByte : RecForm → Byte
  | .small => 0
  | .large => 1

def formatByte : Format → Byte
  | .op => 0
  | .resource => 1
  | .sample => 2
  | .pnp => 3
  | .ne => 4

def halfBytes (v : Half) : List Byte := [Machine.lo v, Machine.hi v]

def bodyBytes (b : List Byte) : List Byte := halfBytes (BitVec.ofNat 16 b.length) ++ b

def lineBytes (l : Line) : List Byte := formatByte l.fmt :: bodyBytes l.bytes

def linesBytes (ls : List Line) : List Byte := halfBytes (BitVec.ofNat 16 ls.length) ++ ls.flatMap lineBytes

def frameBytes (f : Frame) : List Byte :=
  halfBytes (BitVec.ofNat 16 f.record) ++ halfBytes (BitVec.ofNat 16 f.buffer) ++ Machine.macBytes f.eth.dst
    ++ Machine.macBytes f.eth.src ++ halfBytes f.eth.ethertype ++ bodyBytes f.payload

/-- The format an instruction is encoded in. -/
def Instr.format : Instr → Format
  | .lfsrShift _ _ => .op
  | .keySend => .op
  | .pnpAddr _ => .op
  | .pnpWr _ _ => .op
  | .pnpRd _ => .op
  | .pnpWake _ => .op
  | .pnpSetrdp _ => .op
  | .pnpIsosel => .op
  | .pnpSetcsn _ => .op
  | .idSample => .op
  | .idRead => .op
  | .idDecode => .op
  | .isoRound _ => .op
  | .isoEnum => .op
  | .pnpEngine => .op
  | .rdByte => .op
  | .rdHeader => .op
  | .rdBody _ => .op
  | .recVersion _ => .op
  | .recLogdev _ => .op
  | .recCompat _ => .op
  | .recIrq _ => .op
  | .recDma _ => .op
  | .recIoport _ => .op
  | .recAnsi _ => .op
  | .recEnd _ => .op
  | .recMem _ => .op
  | .recMem32 _ => .op
  | .recUnknown _ _ => .op
  | .rdDecode _ => .op
  | .cfgMatch _ _ => .op
  | .cfgSelect _ _ => .op
  | .cfgIo _ _ _ => .op
  | .cfgProbe _ _ => .op
  | .cfgIrq _ _ => .op
  | .cfgActivate _ _ => .op
  | .cfgDevice _ _ => .op
  | .cfgAll => .op
  | .nePage _ => .op
  | .neCmd _ => .op
  | .neBnryWr _ => .op
  | .neCurrWr _ => .op
  | .neRsar _ => .op
  | .neRbcr _ => .op
  | .neRdmaRead _ _ => .op
  | .neFifoRd16 => .op
  | .neDmaStop => .op
  | .neRegWr _ _ => .op
  | .neBnryRd => .op
  | .neCurrRd => .op
  | .neRegRd _ => .op
  | .neFifoRd8 => .op
  | .neBind => .op
  | .neReset => .op
  | .neBasicinit => .op
  | .neProm => .op
  | .neMac => .op
  | .neRing => .op
  | .neStart => .op
  | .neIrqen => .op
  | .neHook => .op
  | .neLbclr => .op
  | .neInit => .op
  | .rxIrq => .op
  | .rxPending => .op
  | .rxHdr => .op
  | .rxRunt => .op
  | .rxAlloc => .op
  | .rxAddr => .op
  | .rxClassify => .op
  | .rxPayload => .op
  | .rxDrop => .op
  | .rxAdvance => .op
  | .rxFrame => .op
  | .rxAck => .op
  | .qGuard _ => .op
  | .qEnq _ => .op
  | .qDeq => .op
  | .qSize => .op
  | .qWait => .op
  | .tagVersion _ => .resource
  | .tagLogdev _ => .resource
  | .tagCompat _ => .resource
  | .tagIrq _ => .resource
  | .tagDma _ => .resource
  | .tagIoport _ => .resource
  | .tagEnd _ => .resource
  | .smallUnknown0 _ => .resource
  | .smallUnknown6 _ => .resource
  | .smallUnknown7 _ => .resource
  | .smallUnknown9 _ => .resource
  | .smallUnknownA _ => .resource
  | .smallUnknownB _ => .resource
  | .smallUnknownC _ => .resource
  | .smallUnknownD _ => .resource
  | .smallUnknownE _ => .resource
  | .tagMem _ => .resource
  | .tagAnsi _ => .resource
  | .tagMem32 _ => .resource
  | .largeUnknown _ _ => .resource
  | .sampleOne => .sample
  | .sampleZero => .sample
  | .sampleNocard _ => .sample
  | .pnpRegSetRdData _ => .pnp
  | .pnpRegSerialIsolation => .pnp
  | .pnpRegConfigControl _ => .pnp
  | .pnpRegWake _ => .pnp
  | .pnpRegResourceData => .pnp
  | .pnpRegStatus => .pnp
  | .pnpRegCsn _ => .pnp
  | .pnpRegLogicalDevice _ => .pnp
  | .pnpRegActivate _ => .pnp
  | .pnpRegIoRangeCheck _ => .pnp
  | .pnpRegIoBaseHi _ _ => .pnp
  | .pnpRegIoBaseLo _ _ => .pnp
  | .pnpRegIrqLevel _ => .pnp
  | .pnpRegIrqType _ => .pnp
  | .cmdStop _ => .ne
  | .cmdStart _ => .ne
  | .cmdRread _ => .ne

/-- The bytes of an instruction in its own format, under the numbers of the opcode table (log 9). -/
def encode : Instr → List Byte
  | .lfsrShift r b => [0x01] ++ [r] ++ [boolByte b]
  | .keySend => [0x02]
  | .pnpAddr reg => [0x03] ++ [reg]
  | .pnpWr reg v => [0x04] ++ [reg] ++ [v]
  | .pnpRd reg => [0x05] ++ [reg]
  | .pnpWake csn => [0x06] ++ [csn]
  | .pnpSetrdp p => [0x07] ++ halfBytes p
  | .pnpIsosel => [0x08]
  | .pnpSetcsn n => [0x09] ++ [n]
  | .idSample => [0x0A]
  | .idRead => [0x0B]
  | .idDecode => [0x0C]
  | .isoRound first => [0x0D] ++ [boolByte first]
  | .isoEnum => [0x0E]
  | .pnpEngine => [0x0F]
  | .rdByte => [0x10]
  | .rdHeader => [0x11]
  | .rdBody len => [0x12] ++ halfBytes len
  | .recVersion body => [0x13] ++ bodyBytes body
  | .recLogdev body => [0x14] ++ bodyBytes body
  | .recCompat body => [0x15] ++ bodyBytes body
  | .recIrq body => [0x16] ++ bodyBytes body
  | .recDma body => [0x17] ++ bodyBytes body
  | .recIoport body => [0x18] ++ bodyBytes body
  | .recAnsi body => [0x19] ++ bodyBytes body
  | .recEnd body => [0x1A] ++ bodyBytes body
  | .recMem body => [0x1B] ++ bodyBytes body
  | .recMem32 body => [0x1C] ++ bodyBytes body
  | .recUnknown form tag => [0x1D] ++ [formByte form] ++ [tag]
  | .rdDecode i => [0x1E] ++ [i]
  | .cfgMatch i j => [0x20] ++ [i] ++ [j]
  | .cfgSelect i j => [0x21] ++ [i] ++ [j]
  | .cfgIo i j k => [0x22] ++ [i] ++ [j] ++ [k]
  | .cfgProbe base len => [0x23] ++ halfBytes base ++ [len]
  | .cfgIrq i j => [0x24] ++ [i] ++ [j]
  | .cfgActivate i j => [0x25] ++ [i] ++ [j]
  | .cfgDevice i j => [0x26] ++ [i] ++ [j]
  | .cfgAll => [0x27]
  | .nePage p => [0x30] ++ halfBytes (BitVec.ofNat 16 p)
  | .neCmd cmd => [0x31] ++ [cmd]
  | .neBnryWr v => [0x32] ++ [v]
  | .neCurrWr v => [0x33] ++ [v]
  | .neRsar addr => [0x34] ++ halfBytes addr
  | .neRbcr count => [0x35] ++ halfBytes count
  | .neRdmaRead addr count => [0x36] ++ halfBytes addr ++ halfBytes count
  | .neFifoRd16 => [0x37]
  | .neDmaStop => [0x38]
  | .neRegWr reg v => [0x39] ++ [reg] ++ [v]
  | .neBnryRd => [0x3A]
  | .neCurrRd => [0x3B]
  | .neRegRd reg => [0x3C] ++ [reg]
  | .neFifoRd8 => [0x3D]
  | .neBind => [0x40]
  | .neReset => [0x41]
  | .neBasicinit => [0x42]
  | .neProm => [0x43]
  | .neMac => [0x44]
  | .neRing => [0x45]
  | .neStart => [0x46]
  | .neIrqen => [0x47]
  | .neHook => [0x48]
  | .neLbclr => [0x49]
  | .neInit => [0x4A]
  | .rxIrq => [0x50]
  | .rxPending => [0x51]
  | .rxHdr => [0x52]
  | .rxRunt => [0x53]
  | .rxAlloc => [0x54]
  | .rxAddr => [0x55]
  | .rxClassify => [0x56]
  | .rxPayload => [0x57]
  | .rxDrop => [0x58]
  | .rxAdvance => [0x59]
  | .rxFrame => [0x5A]
  | .rxAck => [0x5B]
  | .qGuard body => [0x60] ++ linesBytes body
  | .qEnq f => [0x61] ++ frameBytes f
  | .qDeq => [0x62]
  | .qSize => [0x63]
  | .qWait => [0x64]
  | .tagVersion len => [Machine.smallHeader 0x1 len]
  | .tagLogdev len => [Machine.smallHeader 0x2 len]
  | .tagCompat len => [Machine.smallHeader 0x3 len]
  | .tagIrq len => [Machine.smallHeader 0x4 len]
  | .tagDma len => [Machine.smallHeader 0x5 len]
  | .tagIoport len => [Machine.smallHeader 0x8 len]
  | .tagEnd len => [Machine.smallHeader 0xf len]
  | .smallUnknown0 len => [Machine.smallHeader 0x0 len]
  | .smallUnknown6 len => [Machine.smallHeader 0x6 len]
  | .smallUnknown7 len => [Machine.smallHeader 0x7 len]
  | .smallUnknown9 len => [Machine.smallHeader 0x9 len]
  | .smallUnknownA len => [Machine.smallHeader 0xa len]
  | .smallUnknownB len => [Machine.smallHeader 0xb len]
  | .smallUnknownC len => [Machine.smallHeader 0xc len]
  | .smallUnknownD len => [Machine.smallHeader 0xd len]
  | .smallUnknownE len => [Machine.smallHeader 0xe len]
  | .tagMem len => 0x81 :: halfBytes len
  | .tagAnsi len => 0x82 :: halfBytes len
  | .tagMem32 len => 0x85 :: halfBytes len
  | .largeUnknown tag len => tag :: halfBytes len
  | .sampleOne => halfBytes Config.sampleOne
  | .sampleZero => halfBytes Config.sampleZero
  | .sampleNocard sample => halfBytes sample
  | .pnpRegSetRdData v => [0x00, v]
  | .pnpRegSerialIsolation => [0x01]
  | .pnpRegConfigControl v => [0x02, v]
  | .pnpRegWake v => [0x03, v]
  | .pnpRegResourceData => [0x04]
  | .pnpRegStatus => [0x05]
  | .pnpRegCsn v => [0x06, v]
  | .pnpRegLogicalDevice v => [0x07, v]
  | .pnpRegActivate v => [0x30, v]
  | .pnpRegIoRangeCheck v => [0x31, v]
  | .pnpRegIoBaseHi k v => [0x60 + (k.setWidth 8 <<< 1), v]
  | .pnpRegIoBaseLo k v => [0x61 + (k.setWidth 8 <<< 1), v]
  | .pnpRegIrqLevel v => [0x70, v]
  | .pnpRegIrqType v => [0x71, v]
  | .cmdStop ps => [0x21 ||| (ps.setWidth 8 <<< 6)]
  | .cmdStart ps => [0x22 ||| (ps.setWidth 8 <<< 6)]
  | .cmdRread ps => [0x0A ||| (ps.setWidth 8 <<< 6)]

/-! ## The opcode table's words -/

/-- The `n` low bytes of `w`, least significant first: the order the table numbers an instruction's bits in. -/
def wordBytes (n w : Nat) : List Byte :=
  match n with
  | 0 => []
  | n + 1 => BitVec.ofNat 8 w :: wordBytes n (w / 256)

/-- How many bytes of zero operands follow a table word: no fixed part of an operation is longer. -/
def operandZeros : Nat := 40

/-- A table word as a line of format `f`: its bytes, then operand bytes of zero. -/
def tableLine (f : Format) (nbits w : Nat) : Line :=
  ⟨f, wordBytes ((nbits + 7) / 8) w ++ List.replicate operandZeros 0⟩

/-- What the line decodes to. -/
def Line.instr (l : Line) : Option Instr :=
  match decode l.fmt l.bytes with
  | .ok (i, _) => some i
  | .error _ => none

/-- The format a table word is read in. The five formats share the byte space, so the width decides first (only
samples have 16 bits) and then the first format that assigns the byte: operation ids, record headers, card
registers, command bytes (log 2). -/
def tableFormat (nbits w : Nat) : Format :=
  if nbits = 16 then .sample
  else if ((tableLine .op nbits w).instr).isSome then .op
  else if ((tableLine .resource nbits w).instr).isSome then .resource
  else if ((tableLine .pnp nbits w).instr).isSome then .pnp
  else .ne

/-- The instruction the decoder reads from an opcode-table word. -/
def decodeTableWord (nbits w : Nat) : Option Instr :=
  (tableLine (tableFormat nbits w) nbits w).instr

end Sys2Proof
end

