-- ==== Sys2Proof/Machine/State.lean ====
section
/-! DEFINITION. The machine's state as plain data, its faults and refusals, and the state after reset
(spec 10 R20 to R53, 60 R290, 70 R320 to R323, 95 section 2). -/

namespace Sys2Proof.Machine

/-! ## Registers (10 R21 to R30) -/

/-- Isolation working registers (10 R21 to R24). `DEVCOUNT` is the length of the device table (log 22). -/
structure IsoRegs where
  /-- `LFSR`, 10 R21 -/
  lfsr : Byte
  /-- `ID[0..8]`, byte `i` at bits `8*i+7 .. 8*i`, 10 R22 -/
  id : BitVec 72
  /-- `BITCNT`, 10 R22 -/
  bitcnt : BitVec 7
  /-- `RDP`, 10 R23; until its written bit is set it holds the spec's "no value", and nothing can read it (log 8) -/
  rdp : Half
  /-- `KEY_SENT`, 10 R24 -/
  keySent : Bool
  deriving DecidableEq, Repr

/-- `CURLD`: which logical device resource records attach to (10 R27). -/
inductive CurLd where
  | none
  | index (j : Fin 4)
  | overflow
  deriving DecidableEq, Repr

/-- Decoder working registers (10 R25, R27). -/
structure DecRegs where
  /-- `CSUM` -/
  csum : Byte
  /-- `CURLD` -/
  curld : CurLd
  /-- `IOCFG` -/
  iocfg : Byte
  /-- `IRQCFG` -/
  irqcfg : Byte
  /-- the device whose stream is being decoded, the `crd` of 41 R184 (log 19) -/
  card : Option Nat
  deriving DecidableEq, Repr

/-- `PHASE`, the sequencer register (10 R26). -/
inductive Phase where
  | powerOn
  | keySent
  | scanning (p : Half)
  | enumerated
  | configured
  | neReset
  | neBasicInit
  | neMacProgrammed
  | neRingConfigured
  | neStarted
  | neInterruptsEnabled
  | neLoopbackCleared
  | running
  | noNic
  deriving DecidableEq, Repr

/-- `QH`, the handle to the receive queue: there is one queue, so a handle is set or not (10 R28). -/
inductive QueueHandle where
  | unset
  | queueQ
  deriving DecidableEq, Repr

/-- The NIC driver context (10 R28, R30). -/
structure NicCtx where
  /-- `IOBASE` -/
  iobase : Half
  /-- `PAGE`; `none` is the spec's `NONE` -/
  page : Option RegPage
  /-- `PROM[0..31]` -/
  prom : List Byte
  /-- `NEXT_PKT` -/
  nextPkt : Byte
  /-- `QH` -/
  qh : QueueHandle
  /-- `NIC_BOUND` -/
  bound : Bool
  deriving DecidableEq, Repr

/-- `FR`, the frame record being filled (44 R264, R265). -/
structure FrameRec where
  record : Nat
  buffer : Nat
  length : Half
  /-- the address fields, `none` until `RX.ADDR` has read them -/
  eth : Option EthHeader
  deriving DecidableEq, Repr

/-- Receive-handler working registers (10 R29). -/
structure RxRegs where
  /-- `ISRSEEN` -/
  isrseen : Byte
  /-- `HDR_STATUS` -/
  hdrStatus : Byte
  /-- `HDR_NEXT` -/
  hdrNext : Byte
  /-- `HDR_TOTAL` -/
  hdrTotal : Half
  /-- `ETYPE` -/
  etype : Half
  /-- `FR`; `none` is the spec's `NONE` -/
  fr : Option FrameRec
  deriving DecidableEq, Repr

/-- The interrupt flags of 10 R30. -/
structure Flags where
  /-- `IF` -/
  ifl : Bool
  /-- `IRQ_LINE_MASKED` -/
  lineMasked : Bool
  /-- `HANDLER_SET` -/
  handlerSet : Bool
  /-- `HALTED` -/
  halted : Bool
  deriving DecidableEq, Repr

/-- Which of the elements that reset leaves unspecified have been written (10 R51, 93 U3; log 8). The model's
own field. The handler's registers are local to one run and count as unwritten at its entry (log 31). -/
structure Written where
  rdp : Bool
  id : Bool
  csum : Bool
  curld : Bool
  prom : Bool
  nextPkt : Bool
  isrseen : Bool
  hdr : Bool
  etype : Bool
  fr : Bool
  deriving DecidableEq, Repr

/-! ## Failures (60 R290) -/

/-- The failures and diagnostics of 60 R290, with their info. -/
inductive Failure where
  | noCard (sample : Half)
  | idChecksum
  | deviceTableFull
  | resourceChecksum (csum : Byte)
  | unknownTag (form : RecForm) (tag : Byte)
  | lengthFatal (tag : Byte) (len : Half)
  | lengthMismatch (tag : Byte) (len : Half)
  | orphanRecord
  | capacityLogicalDevice
  | capacityCompat
  | capacityIo
  | capacityIrq
  | capacityDma
  | capacityMem
  | noFreeIoRange
  | irqUnsupported
  | noNic
  | allocFrame
  | allocPayload (size : Half)
  | runt (total : Half)
  | ethernetI (etype : Half)
  deriving DecidableEq, Repr

/-- What an operation returns: the `-> result` of its rule. The model's own register (log 25). -/
inductive Result where
  | unit
  | byte (v : Byte)
  | half (v : Half)
  | bit (b : Bool)
  | bool (b : Bool)
  | count (n : Nat)
  | ok
  | pass
  | fail
  | failed (f : Failure)
  | found
  | noneFound
  | header (form : RecForm) (tag : Byte) (len : Half)
  | body (bytes : List Byte)
  | identity (vendor : Vendor) (product : Half) (serial : Long)
  | clean
  | occupied
  | etherII
  | etherI
  | frame (f : Frame)
  | noFrame
  | running
  deriving DecidableEq, Repr

/-! ## Control: what each context still has to do (log 3, 10) -/

/-- The recognised record operations (30 R110). -/
inductive RecKind where
  | version
  | logdev
  | compat
  | irq
  | dma
  | ioport
  | ansi
  | endTag
  | mem
  | mem32
  deriving DecidableEq, Repr

/-- What the bytes of a record body are read for: `RD.BODY` alone, or a record of the decode loop. -/
inductive BodyUse where
  | plain
  | record (k : RecKind)
  deriving DecidableEq, Repr

/-- What one access or state read of an operation gave it. -/
inductive Val where
  | unit
  | byte (v : Byte)
  | half (v : Half)
  | bool (b : Bool)
  | nat (n : Nat)
  | page (p : Option RegPage)
  | curld (c : CurLd)
  | ld (l : LogicalDevice)
  | io (d : IoRange)
  | handle (h : Option Nat)
  | frameRec (r : FrameRec)
  | base (b : Option Half)
  deriving DecidableEq, Repr

/-- One step a context still has to make: a program line, an operation, the rest of a composite operation, or the
rest of one that a handler run has split. -/
inductive Task where
  /-- a line of a program (30 R131), decoded when it is reached -/
  | line (l : Line)
  /-- an operation of a composite's expansion -/
  | op (i : Instr)
  /-- `PHASE <- p` -/
  | setPhase (p : Phase)
  /-- the composite's own result -/
  | answer (r : Result)
  /-- `IF <- saved`, the exit of a guard (45 R280) -/
  | restoreIf (saved : Bool)
  /-- `ISO.ENUM` at candidate `k` (40 R156) -/
  | enumAt (k : Nat)
  /-- the inner loop of `ISO.ENUM`, before a round -/
  | enumRounds (k : Nat) (first found : Bool)
  /-- the inner loop of `ISO.ENUM`, after a round -/
  | enumAfter (k : Nat) (found : Bool)
  /-- `RD.HEADER` with these bytes read (41 R171) -/
  | headerRest (got : List Byte)
  /-- a body with `n` bytes to come and these read, last first (41 R172) -/
  | bodyRest (u : BodyUse) (n : Nat) (got : List Byte)
  /-- the decode loop, after a header (41 R184) -/
  | decodeDispatch
  /-- the decode loop, after a record (41 R184) -/
  | decodeNext
  /-- the poll of `NE.RESET` (43 R232) -/
  | resetPoll
  /-- the poll of `NE.START` (43 R237) -/
  | startPoll
  /-- the loop of `RX.IRQ` (44 R260) -/
  | irqLoop
  /-- `HALTED <- 1` of `Q.WAIT` (45 R284) -/
  | waitHalt
  /-- the rest of a step that a handler run has split, with what its parts so far have read, latest first
  (60 R301, R307; log 10) -/
  | resume (t : Task) (got : List Val)
  deriving DecidableEq, Repr

/-- One execution context (60 R308): the steps it still has to make and its last operation's result. -/
structure Ctx where
  todo : List Task
  result : Result
  deriving DecidableEq, Repr

/-- The two contexts and which one runs (60 R302 to R304, R308). -/
structure Control where
  inIrq : Bool
  main : Ctx
  irq : Ctx
  deriving DecidableEq, Repr

/-! ## The environment (00 R14, 10 R40 to R50, R53, 95 section 2) -/

/-- One access to the host's ports or one request to a collaborator, in order (60 R298; log 30). -/
inductive Event where
  | rd8 (port : Half) (v : Byte)
  | rd16 (port : Half) (v : Half)
  | wr8 (port : Half) (v : Byte)
  | registerHandler (vector : Nat)
  | unmaskLine (line : Nat)
  | alloc (size : Nat) (answer : Option Nat)
  | release (handle : Nat)
  deriving DecidableEq, Repr

/-- The protocol state of a PnP card (10 R42). -/
inductive CardState where
  | waitForKey
  | sleep
  | isolation
  | configuration
  deriving DecidableEq, Repr

/-- A reference PnP card (95 section 2.1). -/
structure Card where
  cstate : CardState
  keypos : Nat
  csn : Byte
  idbytes : BitVec 72
  bitpos : Nat
  half : Bool
  lost : Bool
  stream : List Byte
  rpos : Nat
  ldn : Byte
  /-- `cfg[ldn][reg]` at key `ldn*256 + reg` -/
  regs : List Host.Cell
  deriving DecidableEq, Repr

/-- Where a reference NIC's ports are: at a fixed base, or at the base committed to a card's logical device
once that is active (95 section 2.2). -/
inductive Home where
  | at (base : Half)
  | onCard (card : Nat) (ldn : Byte)
  deriving DecidableEq, Repr

/-- A reference NIC: its card memory and registers (10 R43 to R50, 95 section 2.2). -/
structure Nic where
  mem : List Host.Cell
  cr : Byte
  isr : Byte
  imr : Byte
  dcr : Byte
  rcr : Byte
  tcr : Byte
  pstart : Byte
  pstop : Byte
  bnry : Byte
  curr : Byte
  tpsr : Byte
  tbcr : Half
  par : Mac
  /-- `MAR0..7`, `MAR0` in bits [7:0] -/
  mar : BitVec 64
  rsar : Half
  rbcr : Half
  crda : Half
  rbc : Half
  /-- a remote read was commanded and not aborted since (10 R52, 20 R88) -/
  remote : Bool
  home : Home
  deriving DecidableEq, Repr

/-- A frame arriving at a NIC: the bytes and CRC of `receive(f)`, or the dictated header of `receive_raw`
(95 section 2.2). -/
inductive WireFrame where
  | receive (f : List Byte) (crc : List Byte)
  | receiveRaw (h0 h1 h2 h3 : Byte)
  deriving DecidableEq, Repr

/-- The reference cards and NICs on one bus (95 section 2). `wire` lists the frames to come: how many accesses
from now, at which NIC, what. -/
structure Agents where
  cards : List Card
  /-- `ADDR`, the last byte written to the address port -/
  addr : Option Byte
  /-- `RDPORT` -/
  rdport : Option Half
  nics : List Nic
  wire : List (Nat × Nat × WireFrame)
  deriving DecidableEq, Repr

/-- The environment as the engine meets it: the traffic so far, the answers still to be given, and the optional
reference agents (log 4, 5). The model's own field but for the agents' registers. -/
structure Bus where
  trace : List Event
  /-- the next values port reads return; when the list is empty the agents answer, or a free value does -/
  answers : List Half
  /-- the next answers of the request line -/
  lineAnswers : List Bool
  /-- the next answers of `allocate` -/
  allocAnswers : List Bool
  /-- how many boundaries to let pass before each delivery -/
  delays : List Nat
  /-- boundaries left before the delivery that is due, once one is due -/
  countdown : Option Nat
  /-- how many free values have been drawn -/
  draws : Nat
  agents : Option Agents
  deriving DecidableEq, Repr

/-- The heap as its interface shows it: live handles with their sizes, and the next fresh handle (20 R75). -/
structure Heap where
  live : List (Nat × Nat)
  next : Nat
  deriving DecidableEq, Repr

/-! ## The state -/

/-- Everything the spec gives the machine, in the groups of 10 R20. -/
structure State where
  /-- the open parameters of 00 R9 -/
  cfg : Params
  /-- group 1 -/
  iso : IsoRegs
  /-- group 2 -/
  dec : DecRegs
  /-- group 3: the entries in use, `DEVCOUNT` of them -/
  dev : List Device
  /-- group 3: the entry at a count, until it is counted (log 48) -/
  fresh : Option Entry
  /-- group 4 -/
  nic : NicCtx
  phase : Phase
  rx : RxRegs
  /-- group 5 -/
  fl : Flags
  q : List Frame
  /-- frames handed to the consumer and not returned (45 R285) -/
  taken : List Frame
  /-- group 6: `LOG`, oldest first -/
  log : List Failure
  wr : Written
  ctl : Control
  heap : Heap
  bus : Bus
  deriving DecidableEq, Repr

/-- The registers whose read before a write is a fault (10 R23, R51; 93 U3). -/
inductive Reg where
  | rdp
  | id
  | csum
  | curld
  | prom
  | nextPkt
  | isrseen
  | hdr
  | etype
  | fr
  deriving DecidableEq, Repr

/-- Why the machine stops with a fault. -/
inductive Fault where
  /-- Raised by an operation that reads one of the elements of 93 U3 before an operation wrote it: "a read before a
  write is a fault of the model, not a value" (10 R23, R51, 70 R321; log 8). Safe: no value is invented. -/
  | readBeforeWrite (r : Reg)
  deriving DecidableEq, Repr

/-- Why an instruction is refused. -/
inductive Refusal where
  /-- Raised by an arm of `exec` that has no meaning yet. Safe. -/
  | notModelled (mnemonic : String)
  /-- Raised by a PnP operation before the key (40 R142, 70 R324, 93 U1). Safe: the spec says refuse. -/
  | keyNotSent
  /-- Raised by an operation in the context its file does not give it (60 R308, 93 U14). Safe. -/
  | wrongContext
  /-- Raised by an `NE.*` or `RX.*` operation with `NIC_BOUND = 0` (43 preamble, 93 U14). Safe. -/
  | nicNotBound
  /-- Raised by `PNP.ENGINE` and `NE.INIT` in a `PHASE` their rules exclude and by `RX.*` where no handler can run yet
  (40 R157, 43 R241, 44; log 34). Safe. -/
  | badPhase
  /-- Raised by `PNP.SETRDP` on an address that is no candidate (40 R146, 93 U15). Safe. -/
  | notCandidate
  /-- Raised by a write of a CSN outside 1..10 to a card's CSN register: `PNP.SETCSN`, `PNP.WR`, the CSN row (30 R107,
  93 U2). Safe. -/
  | badCsn
  /-- Raised by a remote read of 0 bytes (43 R226, 93 U10). Safe. -/
  | zeroCount
  /-- Raised by `ISO.ROUND` with ten devices in the table (40 R155, 93 U14). Safe. -/
  | tableFull
  /-- Raised by a record operation when no card's stream is being decoded (41 section 2; log 19). Safe. -/
  | noCardDecoding
  /-- Raised by `Q.WAIT` with `IF = 0` (45 R284, 93 U4). Safe. -/
  | interruptsOff
  /-- Raised by `NE.REG.WR` and `NE.REG.RD` on an offset outside the five-bit window (20 R70). Safe. -/
  | badOffset
  /-- Raised by a program line that is no instruction (30 R132). Safe. -/
  | undecodable (e : DecodeError)
  /-- Raised by a step under parameters outside their constraints (93 U21). Safe. -/
  | badParameters
  deriving DecidableEq, Repr

/-- What a meaning or a step answers. -/
abbrev Answer := Host.Outcome State Fault Refusal

/-! ## Reset (10 R51, 70 R320 to R322) -/

def IsoRegs.reset : IsoRegs where
  lfsr := 0          -- DESIGN CHOICE, unsafe (log 6)
  id := 0            -- DESIGN CHOICE, unsafe (log 6)
  bitcnt := 0        -- DESIGN CHOICE, unsafe (log 6)
  rdp := 0           -- DESIGN CHOICE, unsafe (log 6)
  keySent := false

/-- DESIGN CHOICE, unsafe: the spec gives no value (log 6). -/
def DecRegs.reset : DecRegs where
  csum := 0
  curld := .none
  iocfg := 0
  irqcfg := 0
  card := none

def NicCtx.reset : NicCtx where
  iobase := 0                     -- DESIGN CHOICE, unsafe (log 6)
  page := none
  prom := List.replicate 32 0     -- DESIGN CHOICE, unsafe (log 6)
  nextPkt := 0                    -- DESIGN CHOICE, unsafe (log 6)
  qh := .unset                    -- DESIGN CHOICE, unsafe (log 6)
  bound := false

/-- DESIGN CHOICE, unsafe: the spec gives no value (log 6). -/
def RxRegs.reset : RxRegs where
  isrseen := 0
  hdrStatus := 0
  hdrNext := 0
  hdrTotal := 0
  etype := 0
  fr := none

def Flags.reset : Flags where
  ifl := true        -- DESIGN CHOICE, unsafe (log 7)
  lineMasked := true
  handlerSet := false
  halted := false

def Written.reset : Written where
  rdp := false
  id := false
  csum := false
  curld := false
  prom := false
  nextPkt := false
  isrseen := false
  hdr := false
  etype := false
  fr := false

def Ctx.reset : Ctx := ⟨[], .unit⟩

def Control.reset : Control := ⟨false, .reset, .reset⟩

def Heap.reset : Heap := ⟨[], 0⟩

/-- No answer is dictated and no reference agent is present, so every answer is a free value (log 4, 5). -/
def Bus.reset : Bus where
  trace := []
  answers := []
  lineAnswers := []
  allocAnswers := []
  delays := []
  countdown := none
  draws := 0
  agents := none

/-- The machine right after reset (10 R51, 70 R321). -/
def State.reset : State where
  cfg := .default
  iso := .reset
  dec := .reset
  dev := []
  fresh := none
  nic := .reset
  phase := .powerOn
  rx := .reset
  fl := .reset
  q := []
  taken := []
  log := []
  wr := .reset
  ctl := .reset
  heap := .reset
  bus := .reset

end Sys2Proof.Machine
end

