-- ==== Sys2Proof/Machine/Memory.lean ====
section
/-! DEFINITION. Byte memory in one canonical form: addresses strictly rising, no entry equal to what an unlisted
address reads as. It holds a reference NIC's card memory and a reference card's configuration registers
(20 R72, R74; 95 section 2). -/

namespace Sys2Proof.Machine

/-- What an address that is not listed reads as: 95 section 2.2 gives card memory as 0 outside the PROM. -/
def Memory.unlisted : Byte := 0

/-- One byte. -/
def Memory.read : List Host.Cell → Nat → Byte
  | [], _ => Memory.unlisted
  | (b, w) :: m, a => if a = b then w else Memory.read m a

/-- Store one byte, keeping the canonical form: writing the unlisted value removes the entry. -/
def Memory.write : List Host.Cell → Nat → Byte → List Host.Cell
  | [], a, v => if v = Memory.unlisted then [] else [(a, v)]
  | (b, w) :: m, a, v =>
    if a < b then (if v = Memory.unlisted then (b, w) :: m else (a, v) :: (b, w) :: m)
    else if a = b then (if v = Memory.unlisted then m else (a, v) :: m)
    else (b, w) :: Memory.write m a v

/-- The canonical form. -/
def Memory.wf : List Host.Cell → Bool
  | [] => true
  | (a, v) :: m => decide (v ≠ Memory.unlisted) && m.all (fun c => decide (a < c.1)) && Memory.wf m

/-- `MemRead(addr, 1)` of 00 R12 on 16-bit card addresses. -/
def memRead8 (m : List Host.Cell) (a : Half) : Byte := Memory.read m a.toNat

/-- `MemRead(addr, 2)`: the byte at the lower address is bits [7:0] (20 R76). -/
def memRead16 (m : List Host.Cell) (a : Half) : Half := pair (memRead8 m (a + 1)) (memRead8 m a)

/-- `MemWrite(addr, 1, v)`. -/
def memWrite8 (m : List Host.Cell) (a : Half) (v : Byte) : List Host.Cell := Memory.write m a.toNat v

end Sys2Proof.Machine
end

