-- ==== Sys2Proof/Machine/Agents.lean ====
section
/-! DEFINITION. The reference environment agents: PnP cards, NE2000s and the frames on the wire (10 R42, 20 R72,
R78, 40 R153, 95 sections 2.1 and 2.2). The engine's rules hold for every answer, so these are one instance only;
they stand in State when a run wants them and are absent at reset (log 5, 29). Every number they know is a parameter
`m` (00 R9). -/

namespace Sys2Proof.Machine

/-! ## PnP cards (95 section 2.1) -/

/-- Byte `i` of the initiation key: the LFSR after `i` shifts of 0 from the seed (30 R102). -/
def keyByte : Nat → Byte
  | 0 => Config.lfsrSeed
  | i + 1 => lfsrShift (keyByte i) false

/-- A write to the address port as one card sees it (95 section 2.1 item 1). -/
def Card.onAddress (v : Byte) (c : Card) : Card :=
  match c.cstate with
  | .waitForKey =>
    if v = keyByte c.keypos then
      if c.keypos + 1 = Config.keyLen then { c with cstate := .sleep, keypos := c.keypos + 1 }
      else { c with keypos := c.keypos + 1 }
    else { c with keypos := if v = Config.lfsrSeed then 1 else 0 }
  | _ => c

/-- The key of register `reg` of logical device `ldn` in a card's register list. -/
def regKey (ldn reg : Byte) : Nat := ldn.toNat * 256 + reg.toNat

/-- A write to the write-data port as one card sees it, register number `addr` (95 section 2.1 item 2). -/
def Card.onData (m : Numbers) (addr v : Byte) (c : Card) : Card :=
  match c.cstate with
  | .waitForKey => c
  | cs =>
    if addr = m.wake then
      if v = 0 then
        if c.csn = 0 then { c with cstate := .isolation, bitpos := 0, half := false, lost := false }
        else { c with cstate := .sleep }
      else if c.csn = v then { c with cstate := .configuration }
      else { c with cstate := .sleep }
    else if addr = m.setRdData then c
    else if addr = m.csn then
      if cs = .isolation ∧ c.bitpos = Config.idBits ∧ c.lost = false then
        { c with csn := v, cstate := .configuration, rpos := 0 }
      else c
    else if cs = .configuration then
      if addr = m.logicalDevice then { c with ldn := v }
      else { c with regs := Memory.write c.regs (regKey c.ldn addr) v }
    else c

/-- Whether a card takes part in the current isolation bit (95 section 2.1 item 3). -/
def Card.takes (c : Card) : Bool :=
  decide (c.cstate = .isolation) && !c.lost && decide (c.bitpos < Config.idBits)

/-- The identifier bit a card is at. -/
def Card.bit (c : Card) : Bool := c.idbytes.getLsbD c.bitpos

/-- One taker after an isolation read on which some taker drove, or none (95 section 2.1 item 3, 40 R153). -/
def Card.afterSample (driven : Bool) (c : Card) : Card :=
  if c.takes then
    let c' := if driven && !c.bit then { c with lost := true, cstate := .sleep } else c
    if c.half then { c' with half := false, bitpos := c.bitpos + 1 } else { c' with half := true }
  else c

/-- The value an isolation read returns: `0x55` then `0xAA` if some taker has a 1, else the floating bus. -/
def isolationByte (cs : List Card) : Byte :=
  match cs.find? fun c => c.takes && c.bit with
  | some c => if c.half then 0xAA else 0x55
  | none => Config.ioFloat

/-- Whether a card is in configuration state. -/
def Card.configuring (c : Card) : Bool := decide (c.cstate = .configuration)

/-- The byte the configuring card's stream gives next; `0xFF` past its end (95 section 2.1 item 4). DESIGN CHOICE:
of several configuring cards (identical identifiers, 93 U22) the first in the list answers (log 39). -/
def streamByte (cs : List Card) : Byte :=
  match cs.find? Card.configuring with
  | some c => (c.stream[c.rpos]?).getD 0xFF
  | none => Config.ioFloat

/-- A byte read of the read-data port with register number `addr` (95 section 2.1 items 3 to 5). DESIGN CHOICE: a
stream read moves on every configuring card (log 39). -/
def cardsRead (m : Numbers) (addr : Option Byte) (cs : List Card) : Byte × List Card :=
  if addr = some m.serialIsolation then
    (isolationByte cs, cs.map (Card.afterSample (cs.any fun c => c.takes && c.bit)))
  else if addr = some m.status then
    (if cs.any Card.configuring then 0x01 else Config.ioFloat, cs)
  else if addr = some m.resourceData then
    (streamByte cs, cs.map fun c => if c.configuring then { c with rpos := c.rpos + 1 } else c)
  else (Config.ioFloat, cs)

/-! ## NE2000s (95 section 2.2, 20 R78) -/

/-- The `PS` field of `CR` (10 R44). -/
def Nic.page (m : Numbers) (n : Nic) : BitVec 2 := (n.cr >>> m.crPs).setWidth 2

/-- Whether a command byte's `RD` field is `001`, remote read (10 R44). -/
def commandsRead (m : Numbers) (v : Byte) : Bool := decide ((v >>> m.crRd) &&& 7 = 1)

/-- Whether a command byte's `RD` field is `1xx`, abort or complete, as in `CMD_NODMA` (10 R44). -/
def commandsAbort (m : Numbers) (v : Byte) : Bool := v.getLsbD (m.crRd + 2)

/-- A status byte with the one bit at a position (10 R49). -/
def statusBit (i : Nat) : Byte := 1 <<< i

/-- Whether a remote read is outstanding: commanded, not aborted since, and bytes left (20 R78, R88). -/
def Nic.reading (n : Nic) : Bool := n.remote && decide (n.rbc ≠ 0)

/-- After either kind of FIFO read: ring wrap, and `RDC` at count 0 (20 R78). -/
def Nic.afterFifo (m : Numbers) (n : Nic) : Nic :=
  { n with
    crda := if n.crda = pair n.pstop 0 then pair n.pstart 0 else n.crda
    isr := if n.rbc = 0 then n.isr ||| statusBit m.isrRdc else n.isr }

/-- `FifoRead16` of 20 R78. DESIGN CHOICE: a read with no transaction answers `free` and leaves `CRDA`, `RBC` and `ISR`
as they are (93 U9: not described; log 29). -/
def Nic.fifo16 (m : Numbers) (free : Half) (n : Nic) : Half × Nic :=
  if n.reading then
    (memRead16 n.mem n.crda, Nic.afterFifo m { n with crda := n.crda + 2, rbc := n.rbc - 2 })
  else (free, n)

/-- `FifoRead8` of 20 R78; with no transaction as `fifo16` (log 29). -/
def Nic.fifo8 (m : Numbers) (free : Half) (n : Nic) : Byte × Nic :=
  if n.reading then
    (memRead8 n.mem n.crda, Nic.afterFifo m { n with crda := n.crda + 1, rbc := n.rbc - 1 })
  else (lo free, n)

/-- The byte of a MAC register, `PAR0` first. -/
def Mac.byte (m : Mac) (i : Nat) : Byte := ((macBytes m)[i]?).getD 0

/-- `PAR<i> <- v`. -/
def Mac.setByte (m : Mac) (i : Nat) (v : Byte) : Mac :=
  match i with
  | 0 => { m with m0 := v }
  | 1 => { m with m1 := v }
  | 2 => { m with m2 := v }
  | 3 => { m with m3 := v }
  | 4 => { m with m4 := v }
  | _ => { m with m5 := v }

/-- A byte read at an offset of the window (95 section 2.2 items 1 to 4). A read of the reset port resets the card:
stopped, `RST` set; `CR` then holds the abort code, which ends a remote read (10 R44; log 29). -/
def Nic.read8 (m : Numbers) (free : Half) (off : Nat) (n : Nic) : Byte × Nic :=
  if off = m.neReset.toNat then (0xFF, { n with cr := m.cmdStop, isr := statusBit m.isrRst, remote := false })
  else if off = m.neData.toNat then n.fifo8 m free
  else if off = m.neCr.toNat then (n.cr, n)
  else if n.page m = 0 ∧ off = m.neBnry.toNat then (n.bnry, n)
  else if n.page m = 0 ∧ off = m.neIsr.toNat then (n.isr, n)
  else if n.page m = 1 ∧ m.nePar0.toNat ≤ off ∧ off < m.nePar0.toNat + 6 then
    (Mac.byte n.par (off - m.nePar0.toNat), n)
  else if n.page m = 1 ∧ off = m.neCurr.toNat then (n.curr, n)
  else (Config.ioFloat, n)

/-- A word read at an offset of the window. Only the data port is word wide (20 R71). -/
def Nic.read16 (m : Numbers) (free : Half) (off : Nat) (n : Nic) : Half × Nic :=
  if off = m.neData.toNat then n.fifo16 m free else (0xFFFF, n)

/-- A write of the command register (95 section 2.2 item 2, 20 R78). A remote read is outstanding from `RD` = `001` on,
until an abort or the end of the count; the other codes leave it (20 R88, 10 R44). -/
def Nic.command (m : Numbers) (v : Byte) (n : Nic) : Nic :=
  { n with
    cr := v
    isr := if v.getLsbD m.crStp then n.isr ||| statusBit m.isrRst
      else if v.getLsbD m.crSta then n.isr &&& ~~~statusBit m.isrRst
      else n.isr
    crda := if commandsRead m v then n.rsar else n.crda
    rbc := if commandsRead m v then n.rbcr else n.rbc
    remote := commandsRead m v || (n.remote && !commandsAbort m v) }

/-- A byte write at an offset of the window (95 section 2.2 items 1 to 3; 10 R45, R46). -/
def Nic.write8 (m : Numbers) (off : Nat) (v : Byte) (n : Nic) : Nic :=
  if off = m.neCr.toNat then n.command m v
  else if n.page m = 0 then
    if off = m.nePstart.toNat then { n with pstart := v }
    else if off = m.nePstop.toNat then { n with pstop := v }
    else if off = m.neBnry.toNat then { n with bnry := v }
    else if off = m.neTpsr.toNat then { n with tpsr := v }
    else if off = m.neTbcr0.toNat then { n with tbcr := pair (hi n.tbcr) v }
    else if off = m.neTbcr1.toNat then { n with tbcr := pair v (lo n.tbcr) }
    else if off = m.neIsr.toNat then { n with isr := n.isr &&& ~~~(v &&& ~~~statusBit m.isrRst) }
    else if off = m.neRsar0.toNat then { n with rsar := pair (hi n.rsar) v }
    else if off = m.neRsar1.toNat then { n with rsar := pair v (lo n.rsar) }
    else if off = m.neRbcr0.toNat then { n with rbcr := pair (hi n.rbcr) v }
    else if off = m.neRbcr1.toNat then { n with rbcr := pair v (lo n.rbcr) }
    else if off = m.neRcr.toNat then { n with rcr := v }
    else if off = m.neTcr.toNat then { n with tcr := v }
    else if off = m.neDcr.toNat then { n with dcr := v }
    else if off = m.neImr.toNat then { n with imr := v }
    else n
  else if n.page m = 1 then
    if m.nePar0.toNat ≤ off ∧ off < m.nePar0.toNat + 6 then
      { n with par := Mac.setByte n.par (off - m.nePar0.toNat) v }
    else if off = m.neCurr.toNat then { n with curr := v }
    else if m.neMar0.toNat ≤ off ∧ off < m.neMar0.toNat + 8 then
      { n with mar := (n.mar &&& ~~~(0xFF#64 <<< (8 * (off - m.neMar0.toNat)))) |||
          (v.setWidth 64 <<< (8 * (off - m.neMar0.toNat))) }
    else n
  else n

/-- The interrupt request: an enabled status bit other than `RST` (60 R301). -/
def Nic.request (m : Numbers) (n : Nic) : Bool := decide (n.isr &&& n.imr &&& ~~~statusBit m.isrRst ≠ 0)

/-- Where the next byte of a frame goes: up by one, from the end of the ring to its start. -/
def ringNext (n : Nic) (a : Half) : Half := if a + 1 = pair n.pstop 0 then pair n.pstart 0 else a + 1

/-- Store bytes into the ring from `a` upward, with the ring's wrap. -/
def ringStore (n : Nic) : List Byte → Half → List Host.Cell → List Host.Cell
  | [], _, m => m
  | b :: bs, a, m => ringStore n bs (ringNext n a) (memWrite8 m a b)

/-- The page after a frame of `total` bytes (95 section 2.2 item 5). -/
def ringAfter (n : Nic) (total : Nat) : Byte :=
  let next := n.curr.toNat + (4 + total + 255) / 256
  BitVec.ofNat 8 (if n.pstop.toNat ≤ next then n.pstart.toNat + (next - n.pstop.toNat) else next)

/-- A frame arrives (95 section 2.2 item 5). -/
def Nic.receive (m : Numbers) (w : WireFrame) (n : Nic) : Nic :=
  match w with
  | .receive f crc =>
    let total := BitVec.ofNat 16 (f.length + 4)
    let next := ringAfter n (f.length + 4)
    { n with
      mem := ringStore n ([0x01, next, lo total, hi total] ++ f ++ crc) (pair n.curr 0) n.mem
      curr := next
      isr := n.isr ||| statusBit m.isrPrx }
  | .receiveRaw h0 h1 h2 h3 =>
    { n with
      mem := ringStore n [h0, h1, h2, h3] (pair n.curr 0) n.mem
      curr := h1
      isr := n.isr ||| statusBit m.isrPrx }

/-! ## The bus -/

/-- The base a NIC answers at: none while its card is not active (95 section 2.2). -/
def Nic.base (m : Numbers) (cards : List Card) (n : Nic) : Option Half :=
  match n.home with
  | .at b => some b
  | .onCard i ldn =>
    match cards[i]? with
    | none => none
    | some c =>
      if (Memory.read c.regs (regKey ldn m.activate)).getLsbD 0 then
        some (pair (Memory.read c.regs (regKey ldn Config.ioCfgBase)) (Memory.read c.regs (regKey ldn 0x61)))
      else none

/-- The offset of a port in a NIC's window. -/
def Nic.offset (m : Numbers) (cards : List Card) (port : Half) (n : Nic) : Option Nat :=
  match n.base m cards with
  | none => none
  | some b => if (port - b).toNat < 0x20 then some (port - b).toNat else none

/-- Let the first NIC whose window holds the port answer. DESIGN CHOICE: of two NICs with overlapping windows the
first in the list takes the access and the other does not see it (log 40). -/
def nicsAt {α : Type} (m : Numbers) (cards : List Card) (port : Half) (f : Nat → Nic → α × Nic) :
    List Nic → Option (α × List Nic)
  | [] => none
  | n :: ns =>
    match n.offset m cards port with
    | some off => let r := f off n; some (r.1, r.2 :: ns)
    | none =>
      match nicsAt m cards port f ns with
      | some r => some (r.1, n :: r.2)
      | none => none

/-- A byte read of any port: the read-data port, a NIC's window, or the floating bus (95 section 2.1 item 5). DESIGN
CHOICE: where the read-data port lies in a NIC's window the cards answer and the NIC does not see the read (log 29). -/
def Agents.read8 (m : Numbers) (free port : Half) (g : Agents) : Byte × Agents :=
  if g.rdport = some port then
    let r := cardsRead m g.addr g.cards
    (r.1, { g with cards := r.2 })
  else
    match nicsAt m g.cards port (Nic.read8 m free) g.nics with
    | some r => (r.1, { g with nics := r.2 })
    | none => (Config.ioFloat, g)

/-- A word read of any port. DESIGN CHOICE: only a NIC answers one, at the read-data port too, and no card sees it (20
R81 leaves the overlap open; log 29). -/
def Agents.read16 (m : Numbers) (free port : Half) (g : Agents) : Half × Agents :=
  match nicsAt m g.cards port (Nic.read16 m free) g.nics with
  | some r => (r.1, { g with nics := r.2 })
  | none => (0xFFFF, g)

/-- A byte write of any port (95 section 2.1 items 1 and 2, section 2.2). DESIGN CHOICE: where a PnP port lies in a
NIC's window the cards take the write and the NIC does not see it (20 R81; log 29). -/
def Agents.write8 (m : Numbers) (port : Half) (v : Byte) (g : Agents) : Agents :=
  if port = Config.pnpAddressPort then
    { g with addr := some v, cards := g.cards.map (Card.onAddress v) }
  else if port = Config.pnpWritePort then
    match g.addr with
    | none => g
    | some a =>
      { g with
        rdport := if a = m.setRdData ∧ g.cards.any (fun c => decide (c.cstate ≠ .waitForKey))
          then some (rdpOfByte v) else g.rdport
        cards := g.cards.map (Card.onData m a v) }
  else
    match nicsAt m g.cards port (fun off n => ((), n.write8 m off v)) g.nics with
    | some r => { g with nics := r.2 }
    | none => g

/-- Time passes by one access: the next frame on the wire comes nearer, or arrives (20 R83). -/
def Agents.tick (m : Numbers) (g : Agents) : Agents :=
  match g.wire with
  | [] => g
  | (0, i, w) :: rest => { g with wire := rest, nics := g.nics.modify i (Nic.receive m w) }
  | (t + 1, i, w) :: rest => { g with wire := (t, i, w) :: rest }

/-- The request line: 60 R300 and R301 speak of one NIC. DESIGN CHOICE: with several, any NIC's request drives it,
whether or not its card is active or the driver is bound to it (log 40). -/
def Agents.request (m : Numbers) (g : Agents) : Bool := g.nics.any (Nic.request m)

end Sys2Proof.Machine
end

