-- ==== Sys2Proof/Machine/Ops.lean ====
section
/-! DEFINITION. The named operations every meaning is built from: the access primitives of 00 R12, `log` and `raise`
of 00 R11, the heap of 20 R75, results and steps still to do, taking the interrupt and returning from it (60 R302,
R303), and step boundaries. -/

namespace Sys2Proof.Machine

/-! ## Port accesses (00 R12, 20 R71) -/

/-- The value a port read returns: a dictated answer, else the reference agents', else a free value (log 4). The
agents see one access of time pass first. -/
def Bus.answer (m : Numbers) (byAgents : Half → Agents → Half × Agents) (b : Bus) : Half × Bus :=
  let g := b.agents.map (Agents.tick m)
  match b.answers with
  | v :: rest => (v, { b with answers := rest, agents := g })
  | [] =>
    match g with
    | some g =>
      let r := byAgents (Config.portValue b.draws) g
      (r.1, { b with agents := some r.2, draws := b.draws + 1 })
    | none => (Config.portValue b.draws, { b with draws := b.draws + 1 })

/-- Append to the traffic. -/
def Bus.emit (e : Event) (b : Bus) : Bus := { b with trace := b.trace ++ [e] }

/-- A byte read: a dictated answer gives its low byte. -/
def Bus.read8 (m : Numbers) (port : Half) (b : Bus) : Byte × Bus :=
  let r := b.answer m fun free g => let r := g.read8 m free port; (r.1.setWidth 16, r.2)
  (lo r.1, r.2.emit (.rd8 port (lo r.1)))

/-- A word read. -/
def Bus.read16 (m : Numbers) (port : Half) (b : Bus) : Half × Bus :=
  let r := b.answer m fun free g => g.read16 m free port
  (r.1, r.2.emit (.rd16 port r.1))

/-- A byte write. -/
def Bus.write8 (m : Numbers) (port : Half) (v : Byte) (b : Bus) : Bus :=
  ({ b with agents := b.agents.map fun g => (g.tick m).write8 m port v } : Bus).emit (.wr8 port v)

/-- `IoRead(port, 1)` (00 R12). -/
def ioRead8 (port : Half) (s : State) : Byte × State :=
  let r := s.bus.read8 s.cfg.num port
  (r.1, { s with bus := r.2 })

/-- `IoRead(port, 2)` (00 R12). -/
def ioRead16 (port : Half) (s : State) : Half × State :=
  let r := s.bus.read16 s.cfg.num port
  (r.1, { s with bus := r.2 })

/-- `IoWrite(port, 1, v)` (00 R12). -/
def ioWrite8 (port : Half) (v : Byte) (s : State) : State := { s with bus := s.bus.write8 s.cfg.num port v }

/-- The read port; its users check that it was written (10 R23). -/
def State.rdPort (s : State) : Half := s.iso.rdp

/-- A request to a collaborator, which the traffic records (60 R300; log 30). -/
def request (e : Event) (s : State) : State := { s with bus := s.bus.emit e }

/-! ## Log, results and steps still to do -/

/-- The numeric code of 60 R290. -/
def Failure.code : Failure → Byte
  | .noCard _ => 0x01
  | .idChecksum => 0x02
  | .deviceTableFull => 0x03
  | .resourceChecksum _ => 0x10
  | .unknownTag _ _ => 0x11
  | .lengthFatal _ _ => 0x12
  | .lengthMismatch _ _ => 0x13
  | .orphanRecord => 0x14
  | .capacityLogicalDevice => 0x20
  | .capacityCompat => 0x21
  | .capacityIo => 0x22
  | .capacityIrq => 0x23
  | .capacityDma => 0x24
  | .capacityMem => 0x25
  | .noFreeIoRange => 0x30
  | .irqUnsupported => 0x31
  | .noNic => 0x38
  | .allocFrame => 0x40
  | .allocPayload _ => 0x41
  | .runt _ => 0x48
  | .ethernetI _ => 0x49

/-- The "logged" column of 60 R290: all but `NoCard` and `IdChecksum`. -/
def Failure.logged : Failure → Bool
  | .noCard _ => false
  | .idChecksum => false
  | _ => true

/-- `log F(info)` (00 R11). -/
def logFailure (f : Failure) (s : State) : State := { s with log := s.log ++ [f] }

/-- The context that runs. -/
def State.active (s : State) : Ctx := if s.ctl.inIrq then s.ctl.irq else s.ctl.main

/-- Replace the context that runs. -/
def State.setActive (c : Ctx) (s : State) : State :=
  { s with ctl := if s.ctl.inIrq then { s.ctl with irq := c } else { s.ctl with main := c } }

/-- What the last operation of the running context returned. -/
def State.result (s : State) : Result := s.active.result

/-- An operation returns `r`. -/
def setResult (r : Result) (s : State) : State := s.setActive { s.active with result := r }

/-- Put steps in front of what the running context still has to do. -/
def push (ts : List Task) (s : State) : State := s.setActive { s.active with todo := ts ++ s.active.todo }

/-- `raise F(info)`: the operation ends with `F`, logged where 60 R290 says so (00 R11, 60 R291). -/
def raise (f : Failure) (s : State) : State :=
  setResult (.failed f) (if f.logged then logFailure f s else s)

/-- `PHASE <- p`. -/
def setPhase (p : Phase) (s : State) : State := { s with phase := p }

/-! ## The heap (20 R75) -/

/-- Whether this `allocate` succeeds: a dictated answer, else yes with the reference allocator, else a free value
(93 U23; log 4). -/
def Bus.allocAnswer (b : Bus) : Bool × Bus :=
  match b.allocAnswers with
  | a :: rest => (a, { b with allocAnswers := rest })
  | [] =>
    match b.agents with
    | some _ => (true, b)
    | none => (Config.allocOk b.draws, { b with draws := b.draws + 1 })

/-- `allocate(size)`: a fresh handle, or none (20 R75). -/
def allocate (size : Nat) (s : State) : Option Nat × State :=
  let r := s.bus.allocAnswer
  if r.1 then
    (some s.heap.next,
      { s with
        heap := ⟨(s.heap.next, size) :: s.heap.live, s.heap.next + 1⟩
        bus := r.2.emit (.alloc size (some s.heap.next)) })
  else (none, { s with bus := r.2.emit (.alloc size none) })

/-- `release(h)` (20 R75). -/
def release (h : Nat) (s : State) : State :=
  { s with
    heap := { s.heap with live := s.heap.live.filter fun p => decide (p.1 ≠ h) }
    bus := s.bus.emit (.release h) }

/-! ## The interrupt (60 R301 to R303) -/

/-- Entry: the line is masked, a halted main context is woken and suspended where it is, and `RX.IRQ` starts. `IF`,
`PHASE` and `PAGE` keep their values and nothing is saved (60 R302). The handler's own registers start unwritten
(10 R29; log 31). -/
def takeInterrupt (s : State) : State :=
  { s with
    fl := { s.fl with lineMasked := true, halted := false }
    ctl := { s.ctl with inIrq := true, irq := ⟨[.op .rxIrq], .unit⟩ }
    rx := { s.rx with fr := none }
    wr := { s.wr with isrseen := false, hdr := false, etype := false, fr := false } }

/-- Return: the line is unmasked and the main context goes on where it was (60 R303). -/
def returnFromInterrupt (s : State) : State :=
  { s with
    fl := { s.fl with lineMasked := false }
    ctl := { s.ctl with inIrq := false } }

/-- Whether a handler run may start, but for the request (60 R301). -/
def State.deliverable (s : State) : Bool :=
  s.fl.handlerSet && !s.fl.lineMasked && s.fl.ifl && !s.ctl.inIrq

/-- The request line at this boundary: a dictated answer, else the agents', else a free value (60 R301; log 4). -/
def Bus.line (m : Numbers) (b : Bus) : Bool × Bus :=
  match b.lineAnswers with
  | a :: rest => (a, { b with lineAnswers := rest })
  | [] =>
    match b.agents with
    | some g => (g.request m, b)
    | none => (Config.lineAsserted b.draws, { b with draws := b.draws + 1 })

/-- How many boundaries a due delivery waits: the one set earlier, else a dictated number, else a free one. Every
number is finite, so a request that stays asserted is taken after finitely many steps (60 R301; log 11). -/
def Bus.wait (b : Bus) : Nat × Bus :=
  match b.countdown with
  | some n => (n, b)
  | none =>
    match b.delays with
    | n :: rest => (n, { b with delays := rest })
    | [] =>
      match b.agents with
      | some _ => (0, b)
      | none => (Config.irqDelay b.draws, { b with draws := b.draws + 1 })

/-- Delivery at a step boundary (60 R301). -/
def deliver (s : State) : State :=
  if s.deliverable then
    let l := s.bus.line s.cfg.num
    if l.1 then
      let w := l.2.wait
      match w.1 with
      | 0 => takeInterrupt { s with bus := { w.2 with countdown := none } }
      | n + 1 => { s with bus := { w.2 with countdown := some n } }
    else { s with bus := l.2 }
  else s

/-- What happens between two steps: the handler returns when it has nothing left to do, then delivery. -/
def boundary (s : State) : State :=
  deliver (if s.ctl.inIrq && s.ctl.irq.todo.isEmpty then returnFromInterrupt s else s)

/-- `DEVCOUNT` (10 R24; log 22). -/
def State.devcount (s : State) : Nat := s.dev.length

end Sys2Proof.Machine
end

