-- ==== Sys2Proof/Machine/Prog.lean ====
section
/-! DEFINITION. Operations as programs: one port access, request or state write after another, as the rule's pseudocode
has them, so that a handler run can start between any two of them (20 R80, R83, 60 R301, R307; log 10). A program is
written with its continuation last; what a part reads is handed to the continuation. -/

namespace Sys2Proof.Machine

/-- The parts of an operation that are still to come. -/
inductive Prog where
  | done
  /-- one access, request, state read or state write, then what follows what it read -/
  | act (f : State → Val × State) (k : Val → Prog)

def Prog.isDone : Prog → Bool
  | .done => true
  | .act _ _ => false

/-- All parts one after another, with no handler run between them. -/
def Prog.exec : Prog → State → State
  | .done, s => s
  | .act f k, s => (k (f s).1).exec (f s).2

/-- What is left of a program after its first parts have read these values. -/
def Prog.after : Prog → List Val → Prog
  | .act _ k, v :: vs => (k v).after vs
  | p, _ => p

/-- The main context is suspended where it is: `t` is what it goes on with (60 R302). -/
def suspendAs (t : Task) (s : State) : State :=
  { s with ctl := { s.ctl with main := { s.ctl.main with todo := t :: s.ctl.main.todo } } }

/-- The parts in order, with a step boundary between any two (60 R301): where a handler run starts, the rest of step
`t` waits for it. `got` is what its parts so far have read, latest first. The boundary after the last part is the
step's own (`afterStep`). -/
def Prog.run (t : Task) (got : List Val) : Prog → State → State
  | .done, s => s
  | .act f k, s =>
    let r := f s
    if (k r.1).isDone then r.2
    else
      let u := deliver r.2
      if u.ctl.inIrq && !r.2.ctl.inIrq then suspendAs (.resume t (r.1 :: got)) u
      else (k r.1).run t (r.1 :: got) u

/-! ## What a part can be -/

def Val.toByte : Val → Byte
  | .byte v => v
  | _ => 0

def Val.toHalf : Val → Half
  | .half v => v
  | _ => 0

def Val.toBool : Val → Bool
  | .bool b => b
  | _ => false

def Val.toNat : Val → Nat
  | .nat n => n
  | _ => 0

def Val.toPage : Val → Option RegPage
  | .page p => p
  | _ => none

def Val.toCurld : Val → CurLd
  | .curld c => c
  | _ => .none

def Val.toHandle : Val → Option Nat
  | .handle h => h
  | _ => none

def Val.toBase : Val → Option Half
  | .base b => b
  | _ => none

/-- A part that only changes the state. -/
def Prog.upd (f : State → State) (k : Prog) : Prog := .act (fun s => (.unit, f s)) fun _ => k

/-- The last part. -/
def Prog.last (f : State → State) : Prog := .upd f .done

/-- A part that reads a byte. -/
def Prog.byte (f : State → Byte × State) (k : Byte → Prog) : Prog :=
  .act (fun s => let r := f s; (.byte r.1, r.2)) fun v => k v.toByte

/-- A part that reads a word. -/
def Prog.half (f : State → Half × State) (k : Half → Prog) : Prog :=
  .act (fun s => let r := f s; (.half r.1, r.2)) fun v => k v.toHalf

/-- A part that asks for a buffer. -/
def Prog.handle (f : State → Option Nat × State) (k : Option Nat → Prog) : Prog :=
  .act (fun s => let r := f s; (.handle r.1, r.2)) fun v => k v.toHandle

/-- A part that looks for a NIC's base. -/
def Prog.base (f : State → Option Half × State) (k : Option Half → Prog) : Prog :=
  .act (fun s => let r := f s; (.base r.1, r.2)) fun v => k v.toBase

/-- A part that tests the state. -/
def Prog.test (f : State → Bool) (yes no : Prog) : Prog :=
  .act (fun s => (.bool (f s), s)) fun v => if v.toBool then yes else no

/-- A part that reads a number. -/
def Prog.nat (f : State → Nat) (k : Nat → Prog) : Prog := .act (fun s => (.nat (f s), s)) fun v => k v.toNat

/-- A part that reads a byte register. -/
def Prog.reg8 (f : State → Byte) (k : Byte → Prog) : Prog := .byte (fun s => (f s, s)) k

/-- A part that reads a word register. -/
def Prog.reg16 (f : State → Half) (k : Half → Prog) : Prog := .half (fun s => (f s, s)) k

/-- A part that reads `PAGE`. -/
def Prog.page (k : Option RegPage → Prog) : Prog := .act (fun s => (.page s.nic.page, s)) fun v => k v.toPage

/-- A part that reads `CURLD`. -/
def Prog.curld (k : CurLd → Prog) : Prog := .act (fun s => (.curld s.dec.curld, s)) fun v => k v.toCurld

/-! ## Accesses (00 R12) -/

/-- `IoRead(port, 1)`. -/
def Prog.rd8 (port : Half) (k : Byte → Prog) : Prog := .byte (ioRead8 port) k

/-- `IoWrite(port, 1, v)`. -/
def Prog.wr8 (port : Half) (v : Byte) (k : Prog) : Prog := .upd (ioWrite8 port v) k

/-- A byte read of the read port (10 R23). -/
def Prog.rdPort (k : Byte → Prog) : Prog := .byte (fun s => ioRead8 s.rdPort s) k

/-- `CfgWrite(reg, v)` (40 R143). -/
def Prog.cfgWr (reg v : Byte) (k : Prog) : Prog := .wr8 Config.pnpAddressPort reg <| .wr8 Config.pnpWritePort v k

/-- `CfgRead(reg)` (40 R144). -/
def Prog.cfgRd (reg : Byte) (k : Byte → Prog) : Prog := .wr8 Config.pnpAddressPort reg <| .rdPort k

/-- `NeRead(off)`. -/
def Prog.neRd (off : Half) (k : Byte → Prog) : Prog := .byte (fun s => ioRead8 (s.nic.iobase + off) s) k

/-- `NeWrite(off, v)`. -/
def Prog.neWr (off : Half) (v : Byte) (k : Prog) : Prog := .upd (fun s => ioWrite8 (s.nic.iobase + off) v s) k

/-- A word read at an offset of the NE2000 window. -/
def Prog.neRd16 (off : Half) (k : Half → Prog) : Prog := .half (fun s => ioRead16 (s.nic.iobase + off) s) k

/-- `log F(info)` (00 R11). -/
def Prog.log (f : Failure) (k : Prog) : Prog := .upd (logFailure f) k

/-- The operation ends with a result. -/
def Prog.answer (r : Result) : Prog := .last (setResult r)

/-- The operation ends with a failure (60 R291). -/
def Prog.fail (f : Failure) : Prog := .last (raise f)

end Sys2Proof.Machine
end

