-- ==== Sys2Proof/Machine/Flags.lean ====
section
/-! DEFINITION. The one-bit state elements of 10 R30 and how each is read and written. The engine has no arithmetic
condition codes. -/

namespace Sys2Proof.Machine

/-- `IF <- b`. -/
def setIf (b : Bool) (s : State) : State := { s with fl := { s.fl with ifl := b } }

/-- `IRQ_LINE_MASKED <- b`. -/
def setLineMasked (b : Bool) (s : State) : State := { s with fl := { s.fl with lineMasked := b } }

/-- `HANDLER_SET <- 1`. -/
def setHandler (s : State) : State := { s with fl := { s.fl with handlerSet := true } }

/-- `HALTED <- b`. -/
def setHalted (b : Bool) (s : State) : State := { s with fl := { s.fl with halted := b } }

/-- `KEY_SENT <- 1`. -/
def setKeySent (s : State) : State := { s with iso := { s.iso with keySent := true } }

/-- `NIC_BOUND <- 1`. -/
def setBound (s : State) : State := { s with nic := { s.nic with bound := true } }

/-- A body under the interrupt-disable guard, then `k`: `IF` is cleared and its value kept, and it gets that value back
after the body. In between no handler run can start (45 R280, R286 (4)). -/
def Prog.guardIf (body : Prog → Prog) (k : Prog) : Prog :=
  .act (fun s => (.bool s.fl.ifl, setIf false s)) fun saved => body (.upd (setIf saved.toBool) k)

end Sys2Proof.Machine
end

