-- ==== Sys2Proof/Machine/Operands.lean ====
section
/-! DEFINITION. Operand forms: the table entries that index operands name (log 18), the fields of a record body
(41 R172), the preconditions of the rules with what happens when one does not hold, and how an operation runs. -/

namespace Sys2Proof.Machine

/-! ## Table entries -/

/-- `ISO.ROUND`'s "crd = empty" (40 R155). DESIGN CHOICE: `version` and `vendor_version` are 0 until a version record
comes, and stay so if none does (log 47). -/
def Crd.empty : Crd := ⟨0, 0, [], [], false⟩

/-- `REC.LOGDEV`'s "empty logical device" (41 R174). -/
def LogicalDevice.empty : LogicalDevice := ⟨⟨⟨0, 0, 0⟩, 0⟩, 0, [], none, [], [], none, none, [], false⟩

def Device.empty : Device := ⟨⟨0, 0, 0⟩, 0, 0, 0, Crd.empty⟩

def IoRange.empty : IoRange := ⟨0, 0, 0, 0, 0, 0, none⟩

/-- `DEV[i]`. -/
def State.device (s : State) (i : Nat) : Device := s.dev.getD i Device.empty

/-- `DEV[i].crd.ld[j]`. -/
def State.ld (s : State) (i j : Nat) : LogicalDevice := (s.device i).crd.lds.getD j LogicalDevice.empty

/-- `DEV[i].crd.ld[j].io[k]`. -/
def State.ioRange (s : State) (i j k : Nat) : IoRange := (s.ld i j).io.getD k IoRange.empty

/-- What the spec bounds of a logical device that is not in use: the capacities of 00 R8. -/
def LogicalDevice.clip (l : LogicalDevice) : LogicalDevice :=
  { l with
    compat := l.compat.take Config.compatCap
    mem := l.mem.take Config.memCap
    io := l.io.take Config.ioCap }

/-- What the spec bounds of a device that is not in use. -/
def Device.clip (d : Device) : Device :=
  { d with crd := { d.crd with lds := (d.crd.lds.take Config.ldCap).map LogicalDevice.clip } }

/-- One free value is drawn. -/
def drawn (s : State) : State := { s with bus := { s.bus with draws := s.bus.draws + 1 } }

/-- A read of `DEV[i]`. DESIGN CHOICE: what an entry that is not in use holds is a free value (log 18). -/
def readDevice (i : Nat) (s : State) : Device × State :=
  if i < s.devcount then (s.device i, s) else ((Config.unusedDevice s.bus.draws).clip, drawn s)

/-- A read of `DEV[i].crd.ld[j]`, a free value if it is not in use (log 18). -/
def readLd (i j : Nat) (s : State) : LogicalDevice × State :=
  if j < (s.device i).crd.lds.length then (s.ld i j, s) else ((Config.unusedLd s.bus.draws).clip, drawn s)

/-- A read of `DEV[i].crd.ld[j].io[k]`, a free value if it is not in use (log 18). -/
def readIo (i j k : Nat) (s : State) : IoRange × State :=
  if k < (s.ld i j).io.length then (s.ioRange i j k, s) else (Config.unusedIo s.bus.draws, drawn s)

/-- A part that reads a logical device. -/
def Prog.ld (i j : State → Nat) (k : LogicalDevice → Prog) : Prog :=
  .act (fun s => let r := readLd (i s) (j s) s; (.ld r.1, r.2)) fun
    | .ld l => k l
    | _ => .done

/-- A part that reads an I/O range. -/
def Prog.io (i j k : Nat) (c : IoRange → Prog) : Prog :=
  .act (fun s => let r := readIo i j k s; (.io r.1, r.2)) fun
    | .io d => c d
    | _ => .done

/-- `xs[count]` counted, in a table of `cap` entries (10 R31 to R33). -/
def addEntry {α : Type} (cap : Nat) (xs : List α) (x : α) : List α := (xs ++ [x]).take cap

/-! Writes of an entry that is not in use change nothing that any rule reads, and are dropped (log 18). -/

/-- Update `DEV[i].crd`. -/
def modCrd (i : Nat) (f : Crd → Crd) (s : State) : State :=
  { s with dev := s.dev.modify i fun d => { d with crd := f d.crd } }

/-- Update `DEV[i].crd.ld[j]`. -/
def modLd (i j : Nat) (f : LogicalDevice → LogicalDevice) (s : State) : State :=
  modCrd i (fun c => { c with lds := c.lds.modify j f }) s

/-- Update `DEV[i].crd.ld[j].io[k]`. -/
def modIo (i j k : Nat) (f : IoRange → IoRange) (s : State) : State :=
  modLd i j (fun l => { l with io := l.io.modify k f }) s

/-! ## The entry at a count

A rule that adds an entry writes its fields first and then the count, each in a line of its own, so that a handler run
can start between them (60 R301; log 10). DESIGN CHOICE: until it is counted the entry is in `fresh`, its
unwritten fields 0, empty or `NONE` (log 22, 48). -/

/-- A new entry at a count is begun. -/
def setFresh (e : Entry) (s : State) : State := { s with fresh := some e }

/-- A field of the entry that is being filled is written. -/
def modFresh (f : Entry → Entry) (s : State) : State := { s with fresh := s.fresh.map f }

/-- A field of a logical device that is being filled. -/
def Entry.onLd (f : LogicalDevice → LogicalDevice) : Entry → Entry
  | .ld l => .ld (f l)
  | e => e

/-- A field of an I/O range that is being filled. -/
def Entry.onIo (f : IoRange → IoRange) : Entry → Entry
  | .io d => .io (f d)
  | e => e

/-- A count is raised by 1: the entry that was filled is in use from here on. `add` puts it into its table, or answers
none for an entry of another table, which no rule fills here. -/
def countEntry (add : Entry → Option (State → State)) (s : State) : State :=
  match s.fresh.bind add with
  | some f => { f s with fresh := none }
  | none => s

/-- A filled device goes into the device table. -/
def Entry.toDev : Entry → Option (State → State)
  | .device d => some fun s => { s with dev := addEntry Config.devCap s.dev d }
  | _ => none

/-- A filled logical device goes into `DEV[i].crd`. -/
def Entry.toCrd (i : Nat) : Entry → Option (State → State)
  | .ld l => some (modCrd i fun c => { c with lds := addEntry Config.ldCap c.lds l })
  | _ => none

/-- What a filled entry adds to a logical device. -/
def Entry.added : Entry → Option (LogicalDevice → LogicalDevice)
  | .compat c => some fun l => { l with compat := addEntry Config.compatCap l.compat c }
  | .mem m => some fun l => { l with mem := addEntry Config.memCap l.mem m }
  | .io d => some fun l => { l with io := addEntry Config.ioCap l.io d }
  | _ => none

/-- A filled compatible id, memory range or I/O range goes into `DEV[i].crd.ld[j]`. -/
def Entry.toLd (i j : Nat) (e : Entry) : Option (State → State) := e.added.map (modLd i j)

/-- `DEVCOUNT <- DEVCOUNT + 1`. -/
def countDevice : State → State := countEntry Entry.toDev

/-- `DEV[i].crd.ldcount <- ldcount + 1`. -/
def countLd (i : Nat) : State → State := countEntry (Entry.toCrd i)

/-- `compatcount`, `memcount` or `iocount` of `DEV[i].crd.ld[j]`, raised by 1. -/
def countIn (i j : Nat) : State → State := countEntry (Entry.toLd i j)

/-! ## Record bodies -/

/-- `field(i)`: a byte of the body, 0 beyond the declared length (41 R172). -/
def field (body : List Byte) (i : Nat) : Byte := body.getD i 0

/-- A little-endian 16-bit field (20 R76). -/
def field16 (body : List Byte) (i : Nat) : Half := pair (field body (i + 1)) (field body i)

/-- A 32-bit device id (30 R112). -/
def fieldId (body : List Byte) : DevId := decodeDevId (field body 0) (field body 1) (field body 2) (field body 3)

/-! ## Register pages -/

/-- A page operand: numbers above 2 are page 0 (43 R220). -/
def pageOf (p : Nat) : RegPage :=
  match p with
  | 1 => .p1
  | 2 => .p2
  | _ => .p0

/-! ## Preconditions -/

/-- Why an operation does not run. -/
inductive Stop where
  | fault (f : Fault)
  | refuse (r : Refusal)
  deriving DecidableEq, Repr

/-- A precondition of a rule. -/
inductive Req where
  /-- main context only (60 R308) -/
  | mainContext
  /-- interrupt context only (60 R308) -/
  | irqContext
  /-- `KEY_SENT = 1` (70 R324) -/
  | key
  /-- `NIC_BOUND = 1` (43 preamble) -/
  | bound
  /-- `PHASE` at or after `NeInterruptsEnabled`, or a handler registered just before it (44 preamble; log 34) -/
  | handlerLive
  /-- `PHASE = p` -/
  | phaseIs (p : Phase)
  /-- `IF = 1` (45 R284) -/
  | ifOn
  /-- the element holds a value (10 R51) -/
  | written (r : Reg)
  /-- a card's stream is being decoded (41 section 2) -/
  | decoding
  /-- `DEVCOUNT < 10` (40 R155) -/
  | room
  /-- a read-port candidate (40 R146) -/
  | candidate (p : Half)
  /-- a CSN that the engine assigns (30 R107) -/
  | csn (n : Byte)
  /-- a write of `v` to card register `reg`: to the CSN register only a CSN that the engine assigns (93 U2) -/
  | cardWrite (reg v : Byte)
  /-- a remote read of some bytes (43 R226) -/
  | nonzero (count : Half)
  /-- an offset of the NE2000 window, five bits (20 R70) -/
  | offset (reg : Byte)
  deriving DecidableEq, Repr

/-- `PHASE` is `NeInterruptsEnabled` or a later one that it leads to (44 preamble; log 34). -/
def Phase.handlerLive : Phase → Bool
  | .neInterruptsEnabled => true
  | .neLoopbackCleared => true
  | .running => true
  | _ => false

/-- Whether an operation has written an element whose reset value is unspecified (10 R23, R51). `FR` is written by a
`NONE` too; a record that is there was written. -/
def State.isWritten (s : State) : Reg → Bool
  | .rdp => s.wr.rdp
  | .id => s.wr.id
  | .csum => s.wr.csum
  | .curld => s.wr.curld
  | .prom => s.wr.prom
  | .nextPkt => s.wr.nextPkt
  | .isrseen => s.wr.isrseen
  | .hdr => s.wr.hdr
  | .etype => s.wr.etype
  | .fr => s.wr.fr || s.rx.fr.isSome

/-- A CSN that the engine assigns: 1 to 10 (30 R107). -/
def isCsn (n : Byte) : Bool := decide (1 ≤ n.toNat) && decide (n.toNat ≤ Config.devCap)

/-- Whether a precondition holds. -/
def Req.holds (s : State) : Req → Bool
  | .mainContext => !s.ctl.inIrq
  | .irqContext => s.ctl.inIrq
  | .key => s.iso.keySent
  | .bound => s.nic.bound
  | .handlerLive => s.phase.handlerLive || s.fl.handlerSet
  | .phaseIs p => decide (s.phase = p)
  | .ifOn => s.fl.ifl
  | .written r => s.isWritten r
  | .decoding => s.dec.card.isSome
  | .room => decide (s.devcount < Config.devCap)
  | .candidate p => isCandidate p
  | .csn n => isCsn n
  | .cardWrite reg v => decide (reg ≠ s.cfg.num.csn) || isCsn v
  | .nonzero count => decide (count ≠ 0)
  | .offset reg => decide (reg.toNat ≤ 0x1F)

/-- What happens when it does not: the treatments of 93 section 1. -/
def Req.stop : Req → Stop
  | .mainContext => .refuse .wrongContext
  | .irqContext => .refuse .wrongContext
  | .key => .refuse .keyNotSent
  | .bound => .refuse .nicNotBound
  | .handlerLive => .refuse .badPhase
  | .phaseIs _ => .refuse .badPhase
  | .ifOn => .refuse .interruptsOff
  | .written r => .fault (.readBeforeWrite r)
  | .decoding => .refuse .noCardDecoding
  | .room => .refuse .tableFull
  | .candidate _ => .refuse .notCandidate
  | .csn _ => .refuse .badCsn
  | .cardWrite _ _ => .refuse .badCsn
  | .nonzero _ => .refuse .zeroCount
  | .offset _ => .refuse .badOffset

/-- Stop as the first broken precondition says, else go to the next state. -/
def guarded : List Req → (State → State) → State → Answer
  | [], f, s => .next (f s)
  | r :: rs, f, s =>
    if r.holds s then guarded rs f s
    else match r.stop with
      | .fault x => .fault x
      | .refuse x => .refused x

/-- An operation: step `t`, whose parts are `p`, where its preconditions hold. -/
def operate (t : Task) (rs : List Req) (p : Params → Prog) (s : State) : Answer :=
  guarded rs (fun s => (p s.cfg).run t [] s) s

end Sys2Proof.Machine
end

