-- ==== Sys2Proof/Machine/Isolation.lean ====
section
/-! DEFINITION. The serial isolation protocol and the enumeration loop: ids 0x01 to 0x0F (spec 40). -/

namespace Sys2Proof.Machine

/-! ## The LFSR and the key (40 R140, R141) -/

/-- `LFSR <- v`. -/
def setLfsr (v : Byte) (s : State) : State := { s with iso := { s.iso with lfsr := v } }

/-- `LFSR <- LFSR.SHIFT(LFSR, b)`. -/
def shiftLfsr (b : Bool) (s : State) : State := setLfsr (lfsrShift s.iso.lfsr b) s

/-- `n` writes of 0 to the address port, then `k` (40 R141). -/
def keyPreamble : Nat → Prog → Prog
  | 0, k => k
  | n + 1, k => .wr8 Config.pnpAddressPort 0x00 (keyPreamble n k)

/-- `n` key bytes, then `k`: write `LFSR`, then shift (40 R141). -/
def keyBytes : Nat → Prog → Prog
  | 0, k => k
  | n + 1, k => .upd (fun s => ioWrite8 Config.pnpAddressPort s.iso.lfsr s) <| .upd (shiftLfsr false) (keyBytes n k)

/-- `KEY.SEND` (40 R141). -/
def keySend (c : Params) : Prog :=
  keyPreamble c.keyPreamble <| .upd (setLfsr Config.lfsrSeed) <| keyBytes Config.keyLen <| .last setKeySent

/-- `LFSR.SHIFT r, b` (40 R140): a pure function of its operands; the value is the result. -/
def execLfsrShift (r : Byte) (b : Bool) (s : State) : Answer :=
  operate (.op (.lfsrShift r b)) [] (fun _ => .answer (.byte (lfsrShift r b))) s

/-- `KEY.SEND` (40 R141). It needs no key before it. -/
def execKeySend (s : State) : Answer := operate (.op .keySend) [.mainContext] keySend s

/-! ## Card-register commands (40 R142 to R148) -/

/-- `PNP.ADDR reg` (40 R142). -/
def execPnpAddr (reg : Byte) (s : State) : Answer :=
  operate (.op (.pnpAddr reg)) [.mainContext, .key] (fun _ => .wr8 Config.pnpAddressPort reg .done) s

/-- `PNP.WR reg, v` (40 R143). DESIGN CHOICE: a write of the set-read-port register leaves `RDP` alone, which only
`PNP.SETRDP` writes (10 R23; log 41). -/
def pnpWr (reg v : Byte) (_ : Params) : Prog := .cfgWr reg v .done

/-- A CSN of 0 or above 10 for a card's CSN register is refused (93 U2; log 41). -/
def execPnpWr (reg v : Byte) (s : State) : Answer :=
  operate (.op (.pnpWr reg v)) [.mainContext, .key, .cardWrite reg v] (pnpWr reg v) s

/-- A card-register read with its value as the result (40 R144). -/
def cfgReadOp (reg : Byte) : Prog := .cfgRd reg fun v => .answer (.byte v)

/-- `PNP.RD reg` (40 R144). -/
def pnpRd (reg : Byte) (_ : Params) : Prog := cfgReadOp reg

def execPnpRd (reg : Byte) (s : State) : Answer :=
  operate (.op (.pnpRd reg)) [.mainContext, .key, .written .rdp] (pnpRd reg) s

/-- `CfgWrite(PNP_REG_WAKE, csn)`, then `k` (40 R145). -/
def wake (c : Params) (csn : Byte) (k : Prog) : Prog := .cfgWr c.num.wake csn k

/-- `PNP.WAKE csn` (40 R145). -/
def pnpWake (csn : Byte) (c : Params) : Prog := wake c csn .done

def execPnpWake (csn : Byte) (s : State) : Answer := operate (.op (.pnpWake csn)) [.mainContext, .key] (pnpWake csn) s

/-- `RDP <- p`. -/
def setRdpReg (p : Half) (s : State) : State :=
  { s with iso := { s.iso with rdp := p }, wr := { s.wr with rdp := true } }

/-- The set-read-port write and the register that follows it, then `k` (40 R146). -/
def setRdp (c : Params) (p : Half) (k : Prog) : Prog := .cfgWr c.num.setRdData (rdpByte p) <| .upd (setRdpReg p) k

/-- `PNP.SETRDP p` (40 R146). -/
def pnpSetrdp (p : Half) (c : Params) : Prog := setRdp c p .done

def execPnpSetrdp (p : Half) (s : State) : Answer :=
  operate (.op (.pnpSetrdp p)) [.mainContext, .key, .candidate p] (pnpSetrdp p) s

/-- `PNP.ISOSEL` (40 R147); its delay takes no step (log 13). -/
def isoSelect (c : Params) (k : Prog) : Prog := .wr8 Config.pnpAddressPort c.num.serialIsolation k

def execPnpIsosel (s : State) : Answer :=
  operate (.op .pnpIsosel) [.mainContext, .key] (fun c => isoSelect c .done) s

/-- `CfgWrite(PNP_REG_CSN, n)`, then `k` (40 R148). -/
def setCsn (c : Params) (n : Byte) (k : Prog) : Prog := .cfgWr c.num.csn n k

/-- `PNP.SETCSN n` (40 R148). -/
def pnpSetcsn (n : Byte) (c : Params) : Prog := setCsn c n .done

def execPnpSetcsn (n : Byte) (s : State) : Answer :=
  operate (.op (.pnpSetcsn n)) [.mainContext, .key, .csn n] (pnpSetcsn n) s

/-! ## Reading and decoding an identifier (40 R149 to R151) -/

/-- Two byte reads of the read port, the first in bits [7:0] (40 R149, 30 R101). -/
def idSample (k : Half → Prog) : Prog := .rdPort fun a => .rdPort fun b => k (pair b a)

/-- The meaning of a sample (30 R101): a bit, or none for `NoCard`. -/
def sampleBit (v : Half) : Option Bool :=
  if v = Config.sampleOne then some true else if v = Config.sampleZero then some false else none

/-- The result of a sample (40 R149). -/
def sampleResult (v : Half) : Prog :=
  match sampleBit v with
  | some b => .answer (.bit b)
  | none => .fail (.noCard v)

/-- `ID.SAMPLE` (40 R149). DESIGN CHOICE: that `PNP.ISOSEL` came last is not checked (log 42). -/
def idSampleOp (_ : Params) : Prog := idSample sampleResult

def execIdSample (s : State) : Answer := operate (.op .idSample) [.mainContext, .key, .written .rdp] idSampleOp s

/-- `ID <- v`. From then on `ID` counts as written, so that what a read that ended in `NoCard` has left can be decoded:
DESIGN CHOICE (log 43). -/
def setId (v : BitVec 72) (s : State) : State :=
  { s with iso := { s.iso with id := v }, wr := { s.wr with id := true } }

/-- `BITCNT <- n`. -/
def setBitcnt (n : BitVec 7) (s : State) : State := { s with iso := { s.iso with bitcnt := n } }

/-- Store bit `k` of the identifier, feed the checksum for the first 64, count it, then `c` (40 R150). -/
def idStore (k : Nat) (b : Bool) (c : Prog) : Prog :=
  .upd (fun s => setId (idSetBit s.iso.id k b) s) <|
    (if k < 64 then .upd (shiftLfsr b) else id) <| .upd (setBitcnt (BitVec.ofNat 7 (k + 1))) c

/-- The bits from `72 - n` on; stops at the first sample that is none (40 R150). -/
def idBits : Nat → (Option Failure → Prog) → Prog
  | 0, k => k none
  | n + 1, k => idSample fun v =>
    match sampleBit v with
    | none => k (some (.noCard v))
    | some b => idStore (Config.idBits - (n + 1)) b (idBits n k)

/-- Whether the ninth byte is the checksum of the first eight (40 R150). -/
def idPasses (s : State) : Bool := decide (idByte s.iso.id 8 = s.iso.lfsr)

/-- `ID.READ` (40 R150): none is `ok`. -/
def idRead (k : Option Failure → Prog) : Prog :=
  .upd (setLfsr Config.lfsrSeed) <| .upd (setBitcnt 0) <| .upd (setId 0) <| idBits Config.idBits fun r =>
    match r with
    | some f => k (some f)
    | none => .test idPasses (k none) (k (some .idChecksum))

/-- The result of `ID.READ`; neither failure is logged (60 R292). -/
def idReadResult : Option Failure → Prog
  | some f => .fail f
  | none => .answer .ok

/-- `ID.READ` (40 R150). DESIGN CHOICE: that `PNP.ISOSEL` came last is not checked (log 42). -/
def idReadOp (_ : Params) : Prog := idRead idReadResult

def execIdRead (s : State) : Answer := operate (.op .idRead) [.mainContext, .key, .written .rdp] idReadOp s

/-- The vendor string of `ID` (40 R151). -/
def idVendor (id : BitVec 72) : Vendor := decodeVendor (idByte id 0) (idByte id 1)

/-- The product id of `ID` (40 R151). -/
def idProduct (id : BitVec 72) : Half := pair (idByte id 2) (idByte id 3)

/-- The serial number of `ID`: `ID[7]:ID[6]:ID[5]:ID[4]` (40 R151). -/
def idSerial (id : BitVec 72) : Long := (id >>> 32).setWidth 32

/-- `ID.DECODE` (40 R151). -/
def idDecode (s : State) : State :=
  setResult (.identity (idVendor s.iso.id) (idProduct s.iso.id) (idSerial s.iso.id)) s

def execIdDecode (s : State) : Answer :=
  operate (.op .idDecode) [.mainContext, .key, .written .id] (fun _ => .last idDecode) s

/-! ## One round and the scan (40 R155, R156) -/

/-- The table entry of the card just isolated; its CSN is `DEVCOUNT + 1` (40 R155). -/
def newDevice (s : State) : Device :=
  ⟨idVendor s.iso.id, idProduct s.iso.id, idSerial s.iso.id, BitVec.ofNat 8 (s.devcount + 1), Crd.empty⟩

/-- `DEV[DEVCOUNT] <- entry`: not in use until it is counted (log 22, 48). -/
def fillDevice (s : State) : State := setFresh (.device (newDevice s)) s

/-- `CSUM <- 0`. -/
def clearCsum (s : State) : State := { s with dec := { s.dec with csum := 0 }, wr := { s.wr with csum := true } }

/-- Assign the CSN, store the entry, count it, clear `CSUM`, then read the card's resource data (40 R155). -/
def isoStore (c : Params) : Prog :=
  .nat State.devcount fun n =>
    setCsn c (BitVec.ofNat 8 (n + 1)) <| .upd fillDevice <| .upd countDevice <| .upd clearCsum <|
      .last (push [.op (.rdDecode (BitVec.ofNat 8 n)), .answer .found])

/-- `ISO.ROUND first` (40 R155): a failing read ends the round with `none`. -/
def isoRound (first : Bool) (c : Params) : Prog :=
  (if first then id else wake c 0) <| isoSelect c <| idRead fun r =>
    match r with
    | some _ => .answer .noneFound
    | none => isoStore c

def execIsoRound (first : Bool) (s : State) : Answer :=
  operate (.op (.isoRound first)) [.mainContext, .key, .written .rdp, .room] (isoRound first) s

/-- `ISO.ENUM` at candidate `k`, or its end after the last (40 R156). -/
def enumAt (k : Nat) (c : Params) : Prog :=
  if k < Config.rdpCandidates then
    .upd (setPhase (.scanning (candidate k))) <| wake c 0 <| setRdp c (candidate k) <|
      .last (push [.enumRounds k true false])
  else .upd (setPhase .enumerated) <| .answer .unit

/-- The inner loop's condition: the table has room, else discovery ends with `DeviceTableFull` (40 R156; log 35). -/
def enumRounds (k : Nat) (first found : Bool) (_ : Params) : Prog :=
  .test (fun s => decide (s.devcount < Config.devCap))
    (.last (push [.op (.isoRound first), .enumAfter k found]))
    (.upd (raise .deviceTableFull) <| .last (setPhase .enumerated))

/-- After a round: another one, the end of the scan, or the next candidate (40 R156). -/
def enumAfter (k : Nat) (found : Bool) (_ : Params) : Prog :=
  .test (fun s => decide (s.result = .found)) (.last (push [.enumRounds k false true]))
    (if found then .upd (setPhase .enumerated) <| .answer .unit else .last (push [.enumAt (k + 1)]))

/-- `ISO.ENUM` (40 R156). DESIGN CHOICE: R156 asks for no `PHASE`, so it runs in every one, and its own writes then
move `PHASE` back to `Scanning` (10 R26; log 44). -/
def execIsoEnum (s : State) : Answer :=
  operate (.op .isoEnum) [.mainContext, .key] (fun _ => .last (push [.enumAt 0])) s

/-- `PNP.ENGINE` (40 R157). -/
def execPnpEngine (s : State) : Answer :=
  operate (.op .pnpEngine) [.mainContext, .phaseIs .powerOn]
    (fun _ => .last (push [.op .keySend, .setPhase .keySent, .op .isoEnum, .op .cfgAll, .setPhase .configured])) s

end Sys2Proof.Machine
end

