-- ==== Sys2Proof/Machine/Allocator.lean ====
section
/-! DEFINITION. The resource allocator, configuration and activation: ids 0x20 to 0x27 (spec 42). -/

namespace Sys2Proof.Machine

/-! ## Eligibility (42 R200) -/

/-- `CFG.MATCH` on a logical device (42 R200). -/
def cfgMatch (l : LogicalDevice) : Bool :=
  decide (l.id = Config.neIdentity) || l.compat.any fun c => decide (c = Config.neIdentity)

/-- `DEV[i].crd.ld[j]`, given to `k`. -/
def deviceLd (i j : Nat) (k : LogicalDevice → Prog) : Prog := .ld (fun _ => i) (fun _ => j) k

/-- `CFG.MATCH` (42 R200). -/
def cfgMatchOp (i j : Byte) (_ : Params) : Prog := deviceLd i.toNat j.toNat fun l => .answer (.bool (cfgMatch l))

/-- `CFG.MATCH` (42 R200). It touches no port, so it needs no key (70 R324; log 17). -/
def execCfgMatch (i j : Byte) (s : State) : Answer :=
  operate (.op (.cfgMatch i j)) [.mainContext] (cfgMatchOp i j) s

/-! ## Selection (42 R201) -/

/-- `DEV[i].csn`, a free byte if the entry is not in use (log 18). -/
def readCsn (i : Nat) (s : State) : Byte × State :=
  let r := readDevice i s
  (r.1.csn, r.2)

/-- `CfgWrite(PNP_REG_LOGICAL_DEVICE, j)` -/
def selectLd (c : Params) (j : Nat) (k : Prog) : Prog := .cfgWr c.num.logicalDevice (BitVec.ofNat 8 j) k

/-- Wake the card by its CSN and select the logical device, then `k` (42 R201). -/
def cfgSelect (c : Params) (i j : Nat) (k : Prog) : Prog := .byte (readCsn i) fun csn => wake c csn <| selectLd c j k

/-- `CFG.SELECT i, j` (42 R201). -/
def cfgSelectOp (i j : Byte) (c : Params) : Prog := cfgSelect c i.toNat j.toNat .done

def execCfgSelect (i j : Byte) (s : State) : Answer :=
  operate (.op (.cfgSelect i j)) [.mainContext, .key] (cfgSelectOp i j) s

/-! ## The probe (42 R203) -/

/-- Read the ports in order; stop at the first that does not float (42 R203). -/
def probeSweep (k : Bool → Prog) : List Half → Prog
  | [] => k true
  | p :: ps => .rd8 p fun v => if v = Config.ioFloat then probeSweep k ps else k false

/-- The `len` ports from `base` upward (42 R203; log 38). -/
def probePorts (base : Half) (len : Nat) : List Half := (List.range len).map fun k => base + BitVec.ofNat 16 k

/-- `n` passes, each forward and then in reverse (42 R203). -/
def probePasses (ports : List Half) (k : Bool → Prog) : Nat → Prog
  | 0 => k true
  | n + 1 => probeSweep (fun clean => if clean then probePasses ports k n else k false) (ports ++ ports.reverse)

/-- `CFG.PROBE base, len`: whether the range is clean is given to `k` (42 R203). -/
def cfgProbe (c : Params) (base : Half) (len : Nat) (k : Bool → Prog) : Prog :=
  probePasses (probePorts base len) k c.probePasses

/-- `CFG.PROBE` (42 R203). -/
def cfgProbeOp (base : Half) (len : Byte) (c : Params) : Prog :=
  cfgProbe c base len.toNat fun clean => .answer (if clean then .clean else .occupied)

/-- `CFG.PROBE` (42 R203). It reads host ports, not PnP ports, so it needs no key (70 R324; log 17). -/
def execCfgProbe (base : Half) (len : Byte) (s : State) : Answer :=
  operate (.op (.cfgProbe base len)) [.mainContext] (cfgProbeOp base len) s

/-! ## I/O ranges (42 R202) -/

/-- The step between candidates: the alignment, 1 for 0 (42 R202). -/
def ioStep (d : IoRange) : Nat := if d.align = 0 then 1 else d.align.toNat

/-- The first candidate: `max(0x280, min_base)` rounded up to a multiple of the step (42 R202). -/
def ioFirst (d : IoRange) : Nat :=
  (max Config.ioFloor d.minBase.toNat + ioStep d - 1) / ioStep d * ioStep d

/-- Whether a candidate is tried: not above `max_base`, and the range ends within the port space (42 R202). -/
def ioFits (d : IoRange) (base : Nat) : Bool :=
  decide (base ≤ d.maxBase.toNat) && decide (base + d.len.toNat ≤ 0x10000)

/-- The candidates from `base` up; the first clean one is written to the card, high byte first (42 R202). -/
def ioSearch (c : Params) (d : IoRange) (k : Option Half → Prog) : Nat → Nat → Prog
  | 0, _ => k none
  | n + 1, base =>
    if ioFits d base then
      cfgProbe c (BitVec.ofNat 16 base) d.len.toNat fun clean =>
        if clean then
          .cfgWr d.cfgreg (hi (BitVec.ofNat 16 base)) <| .cfgWr (d.cfgreg + 1) (lo (BitVec.ofNat 16 base)) <|
            k (some (BitVec.ofNat 16 base))
        else ioSearch c d k n (base + ioStep d)
    else k none

/-- No descriptor has more candidates than there are ports. -/
def ioCandidates : Nat := 0x10000

/-- `desc.assigned <- b ; return ok`. -/
def assignIo (i j k : Nat) (b : Half) (s : State) : State :=
  setResult .ok (modIo i j k (fun x => { x with assigned := some b }) s)

/-- `CFG.IO` on range `k` of `DEV[i].crd.ld[j]`: whether a base was assigned is given to `next` (42 R202). -/
def cfgIo (c : Params) (i j k : Nat) (next : Bool → Prog) : Prog :=
  .io i j k fun d =>
    ioSearch c d (fun r =>
      match r with
      | some b => .upd (assignIo i j k b) (next true)
      | none => .upd (raise .noFreeIoRange) (next false)) ioCandidates (ioFirst d)

/-- `CFG.IO` (42 R202). -/
def cfgIoOp (i j k : Byte) (c : Params) : Prog := cfgIo c i.toNat j.toNat k.toNat fun _ => .done

def execCfgIo (i j k : Byte) (s : State) : Answer :=
  operate (.op (.cfgIo i j k)) [.mainContext, .key] (cfgIoOp i j k) s

/-! ## The IRQ (42 R204) -/

/-- Whether IRQ 5 is offered as high-true edge-sensitive (42 R204). -/
def irqOffered (l : LogicalDevice) : Option IrqRes :=
  match l.irq with
  | none => none
  | some r => if r.mask.getLsbD Config.irqChoice && r.info.getLsbD 0 then some r else none

/-- `ld.irq.assigned <- 5 ; return ok`. -/
def assignIrq (i j : Nat) (r : IrqRes) (s : State) : State :=
  setResult .ok (modLd i j (fun l => { l with irq := some { r with assigned := some 5 } }) s)

/-- `CFG.IRQ`: line 5 and type high-true edge are written back; whether the line was granted is given to `next`
(42 R204). -/
def cfgIrq (i j : Nat) (next : Bool → Prog) : Prog :=
  deviceLd i j fun l =>
    match irqOffered l with
    | none => .upd (raise .irqUnsupported) (next false)
    | some r => .cfgWr r.cfgreg 0x05 <| .cfgWr (r.cfgreg + 1) 0x02 <| .upd (assignIrq i j r) (next true)

/-- `CFG.IRQ` (42 R204). -/
def cfgIrqOp (i j : Byte) (_ : Params) : Prog := cfgIrq i.toNat j.toNat fun _ => .done

def execCfgIrq (i j : Byte) (s : State) : Answer :=
  operate (.op (.cfgIrq i j)) [.mainContext, .key] (cfgIrqOp i j) s

/-! ## Activation and the whole of a device (42 R205 to R207) -/

/-- Select, no range check, the activate bit, `ld.active <- 1`, then `k` (42 R205). -/
def cfgActivate (c : Params) (i j : Nat) (k : Prog) : Prog :=
  selectLd c j <| .cfgWr c.num.ioRangeCheck 0x00 <| .cfgWr c.num.activate 0x01 <|
    .upd (modLd i j fun l => { l with active := true }) k

/-- `CFG.ACTIVATE i, j` (42 R205). -/
def cfgActivateOp (i j : Byte) (c : Params) : Prog := cfgActivate c i.toNat j.toNat .done

def execCfgActivate (i j : Byte) (s : State) : Answer :=
  operate (.op (.cfgActivate i j)) [.mainContext, .key] (cfgActivateOp i j) s

/-- The I/O ranges in stream order; stops at the first without a base (42 R206). -/
def cfgRanges (c : Params) (i j : Nat) (next : Bool → Prog) : List Nat → Prog
  | [] => next true
  | k :: ks => cfgIo c i j k fun ok => if ok then cfgRanges c i j next ks else next false

/-- The result `ok` or `fail`, then `k`. -/
def deviceResult (ok : Bool) (k : Prog) : Prog := .upd (setResult (if ok then .ok else .fail)) k

/-- `CFG.DEVICE i, j`, then `k`: a part that fails leaves the device unactivated, and nothing is undone (42 R206). -/
def cfgDevice (c : Params) (i j : Nat) (k : Prog) : Prog :=
  deviceLd i j fun l => cfgSelect c i j <|
    cfgRanges c i j (fun ok =>
      if ok then cfgIrq i j fun ok => if ok then cfgActivate c i j (deviceResult true k) else deviceResult false k
      else deviceResult false k) (List.range l.io.length)

/-- `CFG.DEVICE i, j` (42 R206). -/
def cfgDeviceOp (i j : Byte) (c : Params) : Prog := cfgDevice c i.toNat j.toNat .done

def execCfgDevice (i j : Byte) (s : State) : Answer :=
  operate (.op (.cfgDevice i j)) [.mainContext, .key] (cfgDeviceOp i j) s

/-- The listed logical devices of `DEV[i]`, each if it is eligible, then `next` (42 R207). -/
def cfgLds (c : Params) (i : Nat) (next : Prog) : List Nat → Prog
  | [] => next
  | j :: js => deviceLd i j fun l => if cfgMatch l then cfgDevice c i j (cfgLds c i next js) else cfgLds c i next js

/-- The listed cards, each if its resource data is valid (42 R207). -/
def cfgCards (c : Params) : List Nat → Prog
  | [] => .done
  | i :: is =>
    .test (fun s => (s.device i).crd.valid)
      (.nat (fun s => (s.device i).crd.lds.length) fun n => cfgLds c i (cfgCards c is) (List.range n))
      (cfgCards c is)

/-- `CFG.ALL` (42 R207): a failure on one logical device does not stop the loop. DESIGN CHOICE: it names no result, so
the result field keeps that of the last `CFG.DEVICE` (log 25). -/
def cfgAll (c : Params) : Prog := .nat State.devcount fun n => cfgCards c (List.range n)

def execCfgAll (s : State) : Answer := operate (.op .cfgAll) [.mainContext, .key] cfgAll s

end Sys2Proof.Machine
end

