-- ==== Sys2Proof/Machine/Decoder.lean ====
section
/-! DEFINITION. The resource descriptor decoder: ids 0x10 to 0x1E (spec 41). -/

namespace Sys2Proof.Machine

/-! ## The byte reader (41 R170 to R172) -/

/-- `CSUM <- (CSUM + b) mod 256`. -/
def addCsum (b : Byte) (s : State) : State := { s with dec := { s.dec with csum := s.dec.csum + b } }

/-- One poll of the ready bit: when it is set, the data byte, summed, and on to `ready`; else to `wait` (41 R170). -/
def rdPoll (c : Params) (ready : Byte → Prog) (wait : Prog) : Prog :=
  .cfgRd c.num.status fun st =>
    if st.getLsbD 0 then .cfgRd c.num.resourceData fun b => .upd (addCsum b) (ready b) else wait

/-- `RD.BYTE`: a card that is not ready is polled again in the next step, without bound (41 R170; log 12). -/
def rdByte (c : Params) : Prog := rdPoll c (fun b => .answer (.byte b)) (.last (push [.op .rdByte]))

/-- What reading a byte of a stream needs: a read port and a running sum to add to (10 R23, R51). -/
def readReqs : List Req := [.written .rdp, .written .csum]

def execRdByte (s : State) : Answer := operate (.op .rdByte) ([.mainContext, .key] ++ readReqs) rdByte s

/-- `RD.HEADER` with the header byte and the low length byte read (41 R171). -/
def headerHigh (h l0 : Byte) (c : Params) : Prog :=
  rdPoll c (fun l1 => .answer (.header .large h (pair l1 l0))) (.last (push [.headerRest [h, l0]]))

/-- `RD.HEADER` with the header byte of a large record read (41 R171). -/
def headerLow (h : Byte) (c : Params) : Prog :=
  rdPoll c (fun l0 => headerHigh h l0 c) (.last (push [.headerRest [h]]))

/-- `RD.HEADER` with the header byte read (41 R171). -/
def headerForm (h : Byte) (c : Params) : Prog :=
  if isLarge h then headerLow h c
  else .answer (.header .small (smallTag h) ((smallLen h).setWidth 16))

/-- `RD.HEADER` from its start (41 R171). -/
def rdHeader (c : Params) : Prog := rdPoll c (fun h => headerForm h c) (.last (push [.headerRest []]))

/-- `RD.HEADER` after a poll that was not ready. -/
def headerRest (got : List Byte) (c : Params) : Prog :=
  match got with
  | [] => rdHeader c
  | [h] => headerLow h c
  | h :: l0 :: _ => headerHigh h l0 c

def execRdHeader (s : State) : Answer := operate (.op .rdHeader) ([.mainContext, .key] ++ readReqs) rdHeader s

/-! ## Record operations (41 R173 to R183) -/

/-- The device whose stream is being decoded (log 19). -/
def State.card (s : State) : Nat := s.dec.card.getD 0

/-- The card's data is written. -/
def updCrd (f : Crd → Crd) (k : Prog) : Prog := .upd (fun s => modCrd s.card f s) k

/-- Logical device `j` of the card is written. -/
def updLd (j : Nat) (f : LogicalDevice → LogicalDevice) (k : Prog) : Prog := .upd (fun s => modLd s.card j f s) k

/-- Logical device `j` of the card is read. -/
def cardLd (j : Nat) (k : LogicalDevice → Prog) : Prog := .ld State.card (fun _ => j) k

/-- `ldcount` of the card, a free number up to 4 if its entry is not in use (log 18). -/
def cardLdcount (s : State) : Val × State :=
  let r := readDevice s.card s
  (.nat r.1.crd.lds.length, r.2)

/-- `CURLD <- c`. -/
def setCurld (c : CurLd) (s : State) : State :=
  { s with dec := { s.dec with curld := c }, wr := { s.wr with curld := true } }

/-- `IOCFG <- v`. -/
def setIocfg (v : Byte) (s : State) : State := { s with dec := { s.dec with iocfg := v } }

/-- `IRQCFG <- v`. -/
def setIrqcfg (v : Byte) (s : State) : State := { s with dec := { s.dec with irqcfg := v } }

/-- A record that attaches to the current logical device: dropped with `OrphanRecord` before the first one, dropped
silently after a dropped one (41 R185). -/
def attach (f : Fin 4 → Prog) : Prog :=
  .curld fun
    | .none => .log .orphanRecord .done
    | .overflow => .done
    | .index j => f j

/-- `REC.VERSION` (41 R173). -/
def recVersion (body : List Byte) (_ : Params) : Prog :=
  updCrd (fun c => { c with version := field body 0 }) <|
    updCrd (fun c => { c with vendorVersion := field body 1 }) .done

/-- A new entry is begun. -/
def fill (e : Entry) (k : Prog) : Prog := .upd (setFresh e) k

/-- A field of the new logical device. -/
def fillLd (f : LogicalDevice → LogicalDevice) (k : Prog) : Prog := .upd (modFresh (Entry.onLd f)) k

/-- A field of the new I/O range. -/
def fillIo (f : IoRange → IoRange) (k : Prog) : Prog := .upd (modFresh (Entry.onIo f)) k

/-- The new entry of logical device `j` is counted. -/
def countNew (j : Nat) (k : Prog) : Prog := .upd (fun s => countIn s.card j s) k

/-- The new logical device: the fields of the record, line by line, then its count (41 R174). -/
def newLd (body : List Byte) (k : Prog) : Prog :=
  fill (.ld LogicalDevice.empty) <|
    fillLd (fun l => { l with id := { l.id with vendor := decodeVendor (field body 0) (field body 1) } }) <|
    fillLd (fun l => { l with id := { l.id with product := pair (field body 2) (field body 3) } }) <|
    fillLd (fun l => { l with flags := field body 4 }) <|
    .upd (fun s => countLd s.card s) k

/-- A logical-device index as `CURLD` holds it. -/
def curldOf (j : Nat) : CurLd := if h : j < 4 then .index ⟨j, h⟩ else .overflow

/-- `REC.LOGDEV` (41 R174). -/
def recLogdev (body : List Byte) (_ : Params) : Prog :=
  .act cardLdcount fun n =>
    if Config.ldCap ≤ n.toNat then .log .capacityLogicalDevice <| .last (setCurld .overflow)
    else
      newLd body <| .upd (setCurld (curldOf n.toNat)) <| .upd (setIocfg Config.ioCfgBase) <|
        .last (setIrqcfg Config.irqCfgBase)

/-- `REC.COMPAT` (41 R175). -/
def recCompat (body : List Byte) (_ : Params) : Prog :=
  attach fun j => cardLd j fun l =>
    if Config.compatCap ≤ l.compat.length then .log .capacityCompat .done
    else fill (.compat (fieldId body)) <| countNew j .done

/-- The information byte of an IRQ record: high-true edge-sensitive where there is none (41 R176). -/
def irqInfo (body : List Byte) : Byte := if 3 ≤ body.length then field body 2 else 0x01

/-- A field of the IRQ resource of logical device `j`, which its first field makes present. -/
def updIrq (j : Nat) (f : State → IrqRes → IrqRes) (k : Prog) : Prog :=
  .upd (fun s => modLd s.card j (fun l => { l with irq := l.irq.map (f s) }) s) k

/-- `REC.IRQ` (41 R176). DESIGN CHOICE: the fields that are still to be written are 0 and `NONE` (log 48). -/
def recIrq (body : List Byte) (c : Params) : Prog :=
  attach fun j => cardLd j fun l =>
    if l.irq.isSome then .log .capacityIrq .done
    else
      updLd j (fun l => { l with irq := some ⟨field16 body 0, 0, 0, none⟩ }) <|
        updIrq j (fun _ r => { r with info := irqInfo body }) <|
        updIrq j (fun s r => { r with cfgreg := s.dec.irqcfg }) <|
        updIrq j (fun _ r => { r with assigned := none }) <|
        .last (fun s => setIrqcfg (s.dec.irqcfg + c.cfgStep) s)

/-- `REC.DMA` (41 R177). DESIGN CHOICE: the field that is still to be written is 0 (log 48). -/
def recDma (body : List Byte) (_ : Params) : Prog :=
  attach fun j => cardLd j fun l =>
    if l.dma.isSome then .log .capacityDma .done
    else
      updLd j (fun l => { l with dma := some ⟨field body 0, 0⟩ }) <|
        updLd j (fun l => { l with dma := l.dma.map fun r => { r with info := field body 1 } }) .done

/-- The new I/O range: the fields of the record, line by line, then its count (41 R178). -/
def newIo (body : List Byte) (j : Nat) (k : Prog) : Prog :=
  fill (.io { IoRange.empty with info := field body 0 }) <|
    fillIo (fun d => { d with minBase := field16 body 1 }) <|
    fillIo (fun d => { d with maxBase := field16 body 3 }) <|
    fillIo (fun d => { d with align := field body 5 }) <|
    fillIo (fun d => { d with len := field body 6 }) <|
    .upd (fun s => modFresh (Entry.onIo fun d => { d with cfgreg := s.dec.iocfg }) s) <|
    fillIo (fun d => { d with assigned := none }) <|
    countNew j k

/-- `REC.IOPORT` (41 R178). -/
def recIoport (body : List Byte) (c : Params) : Prog :=
  attach fun j => cardLd j fun l =>
    if Config.ioCap ≤ l.io.length then .log .capacityIo .done
    else newIo body j <| .last (fun s => setIocfg (s.dec.iocfg + c.cfgStep) s)

/-- The part of an identifier string that is kept (41 R179). -/
def ansiKept (max : Option Nat) (body : List Byte) : List Byte :=
  match max with
  | none => body
  | some n => body.take n

/-- `REC.ANSI` (41 R179): the card's string before the first logical device, then that device's. -/
def recAnsi (body : List Byte) (c : Params) : Prog :=
  .curld fun
    | .none => updCrd (fun x => { x with ident := ansiKept c.ansiMax body }) .done
    | .overflow => .done
    | .index j => updLd j (fun l => { l with ident := some (ansiKept c.ansiMax body) }) .done

/-- Whether an end tag passes: a checksum byte of 0, or a running sum of 0 (41 R180). -/
def endPasses (body : List Byte) (s : State) : Bool := decide (field body 0 = 0) || decide (s.dec.csum = 0)

/-- `REC.END` (41 R180). -/
def recEnd (body : List Byte) (_ : Params) : Prog :=
  .last fun s => setResult (if endPasses body s then .pass else .fail) s

/-- `REC.UNKNOWN` (41 R183). -/
def recUnknown (form : RecForm) (tag : Byte) (_ : Params) : Prog := .fail (.unknownTag form tag)

/-- `REC.MEM` and `REC.MEM32` share the count (41 R181, R182). They are reached only with `MEM_RECORDS = store_raw`;
with `reject` their tag goes to `REC.UNKNOWN` (10 R36, 41 R181; log 20). -/
def recMemory (kind : MemKind) (tag : Byte) (body : List Byte) (c : Params) : Prog :=
  match c.memRecords with
  | .reject => recUnknown .large tag c
  | .storeRaw =>
    attach fun j => cardLd j fun l =>
      if Config.memCap ≤ l.mem.length then .log .capacityMem .done
      else fill (.mem ⟨kind, body⟩) <| countNew j .done

/-- `REC.MEM` (41 R181). -/
def recMem (body : List Byte) (c : Params) : Prog := recMemory .mem16 c.num.tagMem body c

/-- `REC.MEM32` (41 R182). -/
def recMem32 (body : List Byte) (c : Params) : Prog := recMemory .mem32 c.num.tagMem32 body c

/-- The operation of a recognised tag (30 R110). -/
def runRecord (k : RecKind) (body : List Byte) (c : Params) : Prog :=
  match k with
  | .version => recVersion body c
  | .logdev => recLogdev body c
  | .compat => recCompat body c
  | .irq => recIrq body c
  | .dma => recDma body c
  | .ioport => recIoport body c
  | .ansi => recAnsi body c
  | .endTag => recEnd body c
  | .mem => recMem body c
  | .mem32 => recMem32 body c

/-- What a record that attaches needs: a card, and a `CURLD` that was written (10 R51). -/
def attachReqs : List Req := [.mainContext, .key, .decoding, .written .curld]

def execRecVersion (body : List Byte) (s : State) : Answer :=
  operate (.op (.recVersion body)) [.mainContext, .key, .decoding] (recVersion body) s

def execRecLogdev (body : List Byte) (s : State) : Answer :=
  operate (.op (.recLogdev body)) [.mainContext, .key, .decoding] (recLogdev body) s

def execRecCompat (body : List Byte) (s : State) : Answer :=
  operate (.op (.recCompat body)) attachReqs (recCompat body) s

def execRecIrq (body : List Byte) (s : State) : Answer := operate (.op (.recIrq body)) attachReqs (recIrq body) s

def execRecDma (body : List Byte) (s : State) : Answer := operate (.op (.recDma body)) attachReqs (recDma body) s

def execRecIoport (body : List Byte) (s : State) : Answer :=
  operate (.op (.recIoport body)) attachReqs (recIoport body) s

def execRecAnsi (body : List Byte) (s : State) : Answer := operate (.op (.recAnsi body)) attachReqs (recAnsi body) s

/-- What the end tag's test needs: the running sum, unless the checksum byte is 0, which passes "without looking at the
sum" (41 R180). -/
def endReqs (body : List Byte) : List Req := if field body 0 = 0 then [] else [.written .csum]

def execRecEnd (body : List Byte) (s : State) : Answer :=
  operate (.op (.recEnd body)) ([.mainContext, .key] ++ endReqs body) (recEnd body) s

/-- What a memory-range record needs: nothing of a card where its tag is unrecognised (41 R181, R183). -/
def memoryReqs (s : State) : List Req :=
  match s.cfg.memRecords with
  | .reject => [.mainContext, .key]
  | .storeRaw => attachReqs

/-- `REC.MEM` (41 R181). -/
def execRecMem (body : List Byte) (s : State) : Answer := operate (.op (.recMem body)) (memoryReqs s) (recMem body) s

/-- `REC.MEM32` (41 R182). -/
def execRecMem32 (body : List Byte) (s : State) : Answer :=
  operate (.op (.recMem32 body)) (memoryReqs s) (recMem32 body) s

/-- `REC.UNKNOWN` (41 R183). -/
def execRecUnknown (form : RecForm) (tag : Byte) (s : State) : Answer :=
  operate (.op (.recUnknown form tag)) [.mainContext, .key] (recUnknown form tag) s

/-! ## Bodies and the length check (41 R172, R186) -/

/-- The tag of a recognised record (30 R110). -/
def RecKind.tag (m : Numbers) : RecKind → Byte
  | .version => m.tagVersion
  | .logdev => m.tagLogdev
  | .compat => m.tagCompat
  | .irq => m.tagIrq
  | .dma => m.tagDma
  | .ioport => m.tagIoport
  | .ansi => m.tagAnsi
  | .endTag => m.tagEnd
  | .mem => m.tagMem
  | .mem32 => m.tagMem32

/-- `len in expected(op)` (41 R186). DESIGN CHOICE: the lengths and the record layouts of 30 R111 to R121 are fixed;
only the tag numbers are parameters (00 R9, D15; log 9). -/
def RecKind.expects (k : RecKind) (len : Nat) : Bool :=
  match k with
  | .version => decide (len = 2)
  | .logdev => decide (len = 5) || decide (len = 6)
  | .compat => decide (len = 4)
  | .irq => decide (len = 2) || decide (len = 3)
  | .dma => decide (len = 2)
  | .ioport => decide (len = 7)
  | .ansi => true
  | .endTag => decide (len = 1)
  | .mem => decide (len = 9)
  | .mem32 => decide (len = 17)

/-- A record whose body is read: the length check, then the operation (41 R184, R186). -/
def recordDone (k : RecKind) (body : List Byte) (c : Params) : Prog :=
  if k.expects body.length then runRecord k body c
  else .log (.lengthMismatch (k.tag c.num) (BitVec.ofNat 16 body.length)) <|
    if c.lenMismatchFatal then .fail (.lengthFatal (k.tag c.num) (BitVec.ofNat 16 body.length))
    else runRecord k body c

/-- What is done with a body that is read whole. -/
def bodyDone (u : BodyUse) (body : List Byte) (c : Params) : Prog :=
  .upd (setResult (.body body)) <|
    match u with
    | .plain => .done
    | .record k => recordDone k body c

/-- `RD.BODY`: `n` bytes more, after those in `got`, last first (41 R172). -/
def readBody (u : BodyUse) (c : Params) : Nat → List Byte → Prog
  | 0, got => bodyDone u got.reverse c
  | n + 1, got => rdPoll c (fun b => readBody u c n (b :: got)) (.last (push [.bodyRest u (n + 1) got]))

/-- What reading a body of `len` bytes needs: nothing if it "reads nothing" (41 R172). -/
def bodyReqs (len : Nat) : List Req := if len = 0 then [] else readReqs

/-- `RD.BODY len` (41 R172). -/
def rdBody (len : Half) (c : Params) : Prog := readBody .plain c len.toNat []

def execRdBody (len : Half) (s : State) : Answer :=
  operate (.op (.rdBody len)) ([.mainContext, .key] ++ bodyReqs len.toNat) (rdBody len) s

/-! ## The decode loop (41 R184) -/

/-- `crd <- DEV[i].crd`. -/
def setCard (i : Nat) (s : State) : State := { s with dec := { s.dec with card := some i } }

/-- One turn of the decode loop (41 R184). -/
def decodeTurn : List Task := [.op .rdHeader, .decodeDispatch, .decodeNext]

/-- `RD.DECODE i`: `crd <- DEV[i].crd ; CURLD <- NONE`, then the loop (41 R184). DESIGN CHOICE: that the card is in
configuration state and `CSUM` is 0 is not checked (log 33). -/
def rdDecode (i : Byte) (_ : Params) : Prog :=
  .upd (setCard i.toNat) <| .upd (setCurld .none) <| .last (push decodeTurn)

def execRdDecode (i : Byte) (s : State) : Answer :=
  operate (.op (.rdDecode i)) [.mainContext, .key] (rdDecode i) s

/-- After the header: `lookup(form, tag)` (41 R184, 30 R110). -/
def decodeDispatch (s : State) : State :=
  match s.result with
  | .header form tag len => push [.op (recordInstr s.cfg.num form tag len)] s
  | _ => s

/-- After the record: a failure ends the loop, a passing end-tag sets `crd.valid`, a failing one raises
`ResourceChecksum`, any other record goes on (41 R184). DESIGN CHOICE: where the rule writes `raise F ; return fail`,
the result of `RD.DECODE` is the failure `F` that the raise leaves, which stands for the rule's `fail` (log 25). -/
def decodeNext (s : State) : State :=
  match s.result with
  | .failed _ => s
  | .pass => setResult .ok (modCrd s.card (fun c => { c with valid := true }) s)
  | .fail => raise (.resourceChecksum s.dec.csum) s
  | _ => push decodeTurn s

end Sys2Proof.Machine
end

