-- ==== Sys2Proof/Machine/Nic.lean ====
section
/-! DEFINITION. The NE2000 register accessors: ids 0x30 to 0x3D (spec 43 section 1). -/

namespace Sys2Proof.Machine

/-- `PAGE <- p`. -/
def setPage (p : Option RegPage) (s : State) : State := { s with nic := { s.nic with page := p } }

/-- `NE.PAGE` on a normalised page, then `k` (43 R220): no access when it is already selected. -/
def selectPage (c : Params) (p : RegPage) (k : Prog) : Prog :=
  .page fun q =>
    if q = some p then k
    else .neRd c.num.neCr fun v => .neWr c.num.neCr (pageCommand c.num v p) <| .upd (setPage (some p)) k

/-- `NE.PAGE p` (43 R220). -/
def nePage (p : Nat) (c : Params) : Prog := selectPage c (pageOf p) .done

def execNePage (p : Nat) (s : State) : Answer := operate (.op (.nePage p)) [.bound] (nePage p) s

/-- The page bits of the page last selected, page 0 when none is known (43 R221). -/
def currentPageBits (m : Numbers) (q : Option RegPage) : Byte :=
  match q with
  | some p => pageBits m p
  | none => 0x00

/-- `NE.CMD cmd`, then `k` (43 R221). -/
def neCommand (c : Params) (cmd : Byte) (k : Prog) : Prog :=
  .page fun q => .neWr c.num.neCr ((cmd &&& cmdMask c.num) ||| currentPageBits c.num q) k

/-- `NE.CMD cmd` (43 R221). -/
def neCmd (cmd : Byte) (c : Params) : Prog := neCommand c cmd .done

def execNeCmd (cmd : Byte) (s : State) : Answer := operate (.op (.neCmd cmd)) [.bound] (neCmd cmd) s

/-- Write the boundary, page 0 forced, then `k` (43 R222). -/
def bnryWrite (c : Params) (v : Byte) (k : Prog) : Prog := selectPage c .p0 <| .neWr c.num.neBnry v k

/-- `NE.BNRY.WR v` (43 R222). -/
def neBnryWr (v : Byte) (c : Params) : Prog := bnryWrite c v .done

def execNeBnryWr (v : Byte) (s : State) : Answer := operate (.op (.neBnryWr v)) [.bound] (neBnryWr v) s

/-- A register read with its value as the result. -/
def neReadOp (off : Half) : Prog := .neRd off fun v => .answer (.byte v)

/-- `NE.BNRY.RD` (43 R222). -/
def neBnryRd (c : Params) : Prog := selectPage c .p0 <| neReadOp c.num.neBnry

def execNeBnryRd (s : State) : Answer := operate (.op .neBnryRd) [.bound] neBnryRd s

/-- Write the current page, page 1 forced, then `k` (43 R223). -/
def currWrite (c : Params) (v : Byte) (k : Prog) : Prog := selectPage c .p1 <| .neWr c.num.neCurr v k

/-- `NE.CURR.WR v` (43 R223). -/
def neCurrWr (v : Byte) (c : Params) : Prog := currWrite c v .done

def execNeCurrWr (v : Byte) (s : State) : Answer := operate (.op (.neCurrWr v)) [.bound] (neCurrWr v) s

/-- Read the current page, page 1 forced (43 R223). -/
def currRead (c : Params) (k : Byte → Prog) : Prog := selectPage c .p1 <| .neRd c.num.neCurr k

/-- `NE.CURR.RD` (43 R223). -/
def neCurrRd (c : Params) : Prog := currRead c fun v => .answer (.byte v)

def execNeCurrRd (s : State) : Answer := operate (.op .neCurrRd) [.bound] neCurrRd s

/-- The remote start address, low byte first, then `k` (43 R224). -/
def rsarWrite (c : Params) (addr : Half) (k : Prog) : Prog :=
  selectPage c .p0 <| .neWr c.num.neRsar0 (lo addr) <| .neWr c.num.neRsar1 (hi addr) k

/-- `NE.RSAR addr` (43 R224). -/
def neRsar (addr : Half) (c : Params) : Prog := rsarWrite c addr .done

def execNeRsar (addr : Half) (s : State) : Answer := operate (.op (.neRsar addr)) [.bound] (neRsar addr) s

/-- The remote byte count, low byte first, then `k` (43 R225). -/
def rbcrWrite (c : Params) (count : Half) (k : Prog) : Prog :=
  selectPage c .p0 <| .neWr c.num.neRbcr0 (lo count) <| .neWr c.num.neRbcr1 (hi count) k

/-- `NE.RBCR count` (43 R225). -/
def neRbcr (count : Half) (c : Params) : Prog := rbcrWrite c count .done

def execNeRbcr (count : Half) (s : State) : Answer := operate (.op (.neRbcr count)) [.bound] (neRbcr count) s

/-- A remote read is started, then `k` (43 R226). -/
def remoteRead (c : Params) (addr count : Half) (k : Prog) : Prog :=
  rsarWrite c addr <| rbcrWrite c count <| neCommand c c.num.cmdRread k

/-- `NE.RDMA.READ addr, count` (43 R226). -/
def neRdmaRead (addr count : Half) (c : Params) : Prog := remoteRead c addr count .done

def execNeRdmaRead (addr count : Half) (s : State) : Answer :=
  operate (.op (.neRdmaRead addr count)) [.bound, .nonzero count] (neRdmaRead addr count) s

/-- A word of the FIFO (43 R227). -/
def fifoRead16 (c : Params) (k : Half → Prog) : Prog := .neRd16 c.num.neData k

/-- A byte of the FIFO (43 R227). -/
def fifoRead8 (c : Params) (k : Byte → Prog) : Prog := .neRd c.num.neData k

/-- `NE.FIFO.RD16` (43 R227). -/
def neFifoRd16 (c : Params) : Prog := fifoRead16 c fun w => .answer (.half w)

def execNeFifoRd16 (s : State) : Answer := operate (.op .neFifoRd16) [.bound] neFifoRd16 s

/-- `NE.FIFO.RD8` (43 R227). -/
def neFifoRd8 (c : Params) : Prog := fifoRead8 c fun b => .answer (.byte b)

def execNeFifoRd8 (s : State) : Answer := operate (.op .neFifoRd8) [.bound] neFifoRd8 s

/-- `n` words from the FIFO, in order. -/
def fifoWords (c : Params) (k : List Half → Prog) : Nat → List Half → Prog
  | 0, got => k got.reverse
  | n + 1, got => fifoRead16 c fun w => fifoWords c k n (w :: got)

/-- The bytes of FIFO words, the lower card address first (20 R76). -/
def wordsBytes (ws : List Half) : List Byte := ws.flatMap fun w => [lo w, hi w]

/-- `NE.DMA.STOP` (43 R228). -/
def neDmaStop (c : Params) : Prog := neCommand c c.num.cmdNodma .done

def execNeDmaStop (s : State) : Answer := operate (.op .neDmaStop) [.bound] neDmaStop s

/-- `NE.REG.WR reg, v`: no page is forced (43 R229). -/
def execNeRegWr (reg v : Byte) (s : State) : Answer :=
  operate (.op (.neRegWr reg v)) [.bound, .offset reg] (fun _ => .neWr (reg.setWidth 16) v .done) s

/-- `NE.REG.RD reg`: no page is forced (43 R229). -/
def neRegRd (reg : Byte) (_ : Params) : Prog := neReadOp (reg.setWidth 16)

def execNeRegRd (reg : Byte) (s : State) : Answer :=
  operate (.op (.neRegRd reg)) [.bound, .offset reg] (neRegRd reg) s

end Sys2Proof.Machine
end

