-- ==== Sys2Proof/Machine/Encodings.lean ====
section
/-! DEFINITION. What arriving data encodings do: record headers (30 R108 to R121), isolation samples (30 R101), PnP
card-register accesses (30 R105 to R107, R122, R123) and NE2000 command bytes (30 R124). Log 14, 15, 16. -/

namespace Sys2Proof.Machine

/-! ## Resource record headers: the record step of 41 R184 for that header -/

/-- What a record's operation needs: the end tag nothing of the table, an attaching record its `CURLD` (41
section 2). -/
def RecKind.reqs : RecKind → List Req
  | .endTag => []
  | .version => [.decoding]
  | .logdev => [.decoding]
  | _ => [.decoding, .written .curld]

/-- What a record of `len` body bytes needs: to read them, and its operation, which a fatal length mismatch does not
reach (41 R170, R184, section 2). -/
def recordReqs (k : RecKind) (len : Nat) (s : State) : List Req :=
  [.mainContext, .key] ++ bodyReqs len ++ if k.expects len || !s.cfg.lenMismatchFatal then k.reqs else []

/-- The body, the length check, then the record's operation (41 R184). -/
def readRecord (k : RecKind) (len : Nat) (c : Params) : Prog := readBody (.record k) c len []

/-- `TAG_VERSION` (30 R110). -/
def tagVersion (len : BitVec 3) (c : Params) : Prog := readRecord .version len.toNat c

def execTagVersion (len : BitVec 3) (s : State) : Answer :=
  operate (.op (.tagVersion len)) (recordReqs .version len.toNat s) (tagVersion len) s

/-- `TAG_LOGDEV` (30 R110). -/
def tagLogdev (len : BitVec 3) (c : Params) : Prog := readRecord .logdev len.toNat c

def execTagLogdev (len : BitVec 3) (s : State) : Answer :=
  operate (.op (.tagLogdev len)) (recordReqs .logdev len.toNat s) (tagLogdev len) s

/-- `TAG_COMPAT` (30 R110). -/
def tagCompat (len : BitVec 3) (c : Params) : Prog := readRecord .compat len.toNat c

def execTagCompat (len : BitVec 3) (s : State) : Answer :=
  operate (.op (.tagCompat len)) (recordReqs .compat len.toNat s) (tagCompat len) s

/-- `TAG_IRQ` (30 R110). -/
def tagIrq (len : BitVec 3) (c : Params) : Prog := readRecord .irq len.toNat c

def execTagIrq (len : BitVec 3) (s : State) : Answer :=
  operate (.op (.tagIrq len)) (recordReqs .irq len.toNat s) (tagIrq len) s

/-- `TAG_DMA` (30 R110). -/
def tagDma (len : BitVec 3) (c : Params) : Prog := readRecord .dma len.toNat c

def execTagDma (len : BitVec 3) (s : State) : Answer :=
  operate (.op (.tagDma len)) (recordReqs .dma len.toNat s) (tagDma len) s

/-- `TAG_IOPORT` (30 R110). -/
def tagIoport (len : BitVec 3) (c : Params) : Prog := readRecord .ioport len.toNat c

def execTagIoport (len : BitVec 3) (s : State) : Answer :=
  operate (.op (.tagIoport len)) (recordReqs .ioport len.toNat s) (tagIoport len) s

/-- `TAG_END` (30 R110). -/
def tagEnd (len : BitVec 3) (c : Params) : Prog := readRecord .endTag len.toNat c

def execTagEnd (len : BitVec 3) (s : State) : Answer :=
  operate (.op (.tagEnd len)) (recordReqs .endTag len.toNat s) (tagEnd len) s

/-- `TAG_ANSI` (30 R110). -/
def tagAnsi (len : Half) (c : Params) : Prog := readRecord .ansi len.toNat c

def execTagAnsi (len : Half) (s : State) : Answer :=
  operate (.op (.tagAnsi len)) (recordReqs .ansi len.toNat s) (tagAnsi len) s

/-- A memory-range header: a record with `MEM_RECORDS = store_raw`, else unrecognised, its body not read (30 R121). -/
def memoryRecord (k : RecKind) (len : Half) (c : Params) : Prog :=
  match c.memRecords with
  | .storeRaw => readRecord k len.toNat c
  | .reject => recUnknown .large (k.tag c.num) c

/-- What a memory-range header needs. -/
def memoryRecordReqs (k : RecKind) (len : Half) (s : State) : List Req :=
  match s.cfg.memRecords with
  | .storeRaw => recordReqs k len.toNat s
  | .reject => [.mainContext, .key]

/-- `TAG_MEM` (30 R110). -/
def tagMem (len : Half) (c : Params) : Prog := memoryRecord .mem len c

def execTagMem (len : Half) (s : State) : Answer :=
  operate (.op (.tagMem len)) (memoryRecordReqs .mem len s) (tagMem len) s

/-- `TAG_MEM32` (30 R110). -/
def tagMem32 (len : Half) (c : Params) : Prog := memoryRecord .mem32 len c

def execTagMem32 (len : Half) (s : State) : Answer :=
  operate (.op (.tagMem32 len)) (memoryRecordReqs .mem32 len s) (tagMem32 len) s

/-- An unrecognised header: `UnknownTag`, and the body is not read (30 R121, 41 R183). -/
def unknownRecord (i : Instr) (form : RecForm) (tag : Byte) (s : State) : Answer :=
  operate (.op i) [.mainContext, .key] (recUnknown form tag) s

def execSmallUnknown0 (len : BitVec 3) (s : State) : Answer := unknownRecord (.smallUnknown0 len) .small 0x0 s
def execSmallUnknown6 (len : BitVec 3) (s : State) : Answer := unknownRecord (.smallUnknown6 len) .small 0x6 s
def execSmallUnknown7 (len : BitVec 3) (s : State) : Answer := unknownRecord (.smallUnknown7 len) .small 0x7 s
def execSmallUnknown9 (len : BitVec 3) (s : State) : Answer := unknownRecord (.smallUnknown9 len) .small 0x9 s
def execSmallUnknownA (len : BitVec 3) (s : State) : Answer := unknownRecord (.smallUnknownA len) .small 0xA s
def execSmallUnknownB (len : BitVec 3) (s : State) : Answer := unknownRecord (.smallUnknownB len) .small 0xB s
def execSmallUnknownC (len : BitVec 3) (s : State) : Answer := unknownRecord (.smallUnknownC len) .small 0xC s
def execSmallUnknownD (len : BitVec 3) (s : State) : Answer := unknownRecord (.smallUnknownD len) .small 0xD s
def execSmallUnknownE (len : BitVec 3) (s : State) : Answer := unknownRecord (.smallUnknownE len) .small 0xE s
def execLargeUnknown (tag : Byte) (len : Half) (s : State) : Answer :=
  unknownRecord (.largeUnknown tag len) .large tag s

/-! ## Isolation samples (30 R101) -/

def execSampleOne (s : State) : Answer := operate (.op .sampleOne) [] (fun _ => sampleResult Config.sampleOne) s
def execSampleZero (s : State) : Answer := operate (.op .sampleZero) [] (fun _ => sampleResult Config.sampleZero) s
def execSampleNocard (v : Half) (s : State) : Answer := operate (.op (.sampleNocard v)) [] (fun _ => sampleResult v) s

/-! ## PnP card registers (30 R105): one card-register access -/

/-- `SET_RD_DATA`: the read port follows the byte written (30 R106, 40 R146). -/
def pnpRegSetRdData (v : Byte) (c : Params) : Prog :=
  .cfgWr c.num.setRdData v <| .upd (setRdpReg (rdpOfByte v)) .done

def execPnpRegSetRdData (v : Byte) (s : State) : Answer :=
  operate (.op (.pnpRegSetRdData v)) [.mainContext, .key, .candidate (rdpOfByte v)] (pnpRegSetRdData v) s

/-- A read of `SERIAL_ISOLATION` (10 R40). -/
def pnpRegSerialIsolation (c : Params) : Prog := cfgReadOp c.num.serialIsolation

def execPnpRegSerialIsolation (s : State) : Answer :=
  operate (.op .pnpRegSerialIsolation) [.mainContext, .key, .written .rdp] pnpRegSerialIsolation s

/-- A write of `CONFIG_CONTROL` (10 R40). -/
def pnpRegConfigControl (v : Byte) (c : Params) : Prog := .cfgWr c.num.configControl v .done

def execPnpRegConfigControl (v : Byte) (s : State) : Answer :=
  operate (.op (.pnpRegConfigControl v)) [.mainContext, .key] (pnpRegConfigControl v) s

/-- A write of `WAKE` (10 R40). -/
def pnpRegWake (v : Byte) (c : Params) : Prog := .cfgWr c.num.wake v .done

def execPnpRegWake (v : Byte) (s : State) : Answer :=
  operate (.op (.pnpRegWake v)) [.mainContext, .key] (pnpRegWake v) s

/-- A read of `RESOURCE_DATA` (10 R40). -/
def pnpRegResourceData (c : Params) : Prog := cfgReadOp c.num.resourceData

def execPnpRegResourceData (s : State) : Answer :=
  operate (.op .pnpRegResourceData) [.mainContext, .key, .written .rdp] pnpRegResourceData s

/-- A read of `STATUS` (10 R40). -/
def pnpRegStatus (c : Params) : Prog := cfgReadOp c.num.status

def execPnpRegStatus (s : State) : Answer :=
  operate (.op .pnpRegStatus) [.mainContext, .key, .written .rdp] pnpRegStatus s

/-- A write of `CSN` (10 R40). -/
def pnpRegCsn (v : Byte) (c : Params) : Prog := .cfgWr c.num.csn v .done

def execPnpRegCsn (v : Byte) (s : State) : Answer :=
  operate (.op (.pnpRegCsn v)) [.mainContext, .key, .csn v] (pnpRegCsn v) s

/-- A write of `LOGICAL_DEVICE` (10 R40). -/
def pnpRegLogicalDevice (v : Byte) (c : Params) : Prog := .cfgWr c.num.logicalDevice v .done

def execPnpRegLogicalDevice (v : Byte) (s : State) : Answer :=
  operate (.op (.pnpRegLogicalDevice v)) [.mainContext, .key] (pnpRegLogicalDevice v) s

/-- A write of `ACTIVATE` (10 R40). -/
def pnpRegActivate (v : Byte) (c : Params) : Prog := .cfgWr c.num.activate v .done

def execPnpRegActivate (v : Byte) (s : State) : Answer :=
  operate (.op (.pnpRegActivate v)) [.mainContext, .key] (pnpRegActivate v) s

/-- A write of `IO_RANGE_CHECK` (10 R40). -/
def pnpRegIoRangeCheck (v : Byte) (c : Params) : Prog := .cfgWr c.num.ioRangeCheck v .done

def execPnpRegIoRangeCheck (v : Byte) (s : State) : Answer :=
  operate (.op (.pnpRegIoRangeCheck v)) [.mainContext, .key] (pnpRegIoRangeCheck v) s

/-- The register of I/O pair `k`: `0x60 + 2*k` (10 R40). -/
def ioPairReg (k : BitVec 3) : Byte := Config.ioCfgBase + (k.setWidth 8 <<< 1)

/-- The high byte of the base in pair `k` (30 R122). -/
def pnpRegIoBaseHi (k : BitVec 3) (v : Byte) (_ : Params) : Prog := .cfgWr (ioPairReg k) v .done

def execPnpRegIoBaseHi (k : BitVec 3) (v : Byte) (s : State) : Answer :=
  operate (.op (.pnpRegIoBaseHi k v)) [.mainContext, .key] (pnpRegIoBaseHi k v) s

/-- The low byte of the base in pair `k` (30 R122). -/
def pnpRegIoBaseLo (k : BitVec 3) (v : Byte) (_ : Params) : Prog := .cfgWr (ioPairReg k + 1) v .done

def execPnpRegIoBaseLo (k : BitVec 3) (v : Byte) (s : State) : Answer :=
  operate (.op (.pnpRegIoBaseLo k v)) [.mainContext, .key] (pnpRegIoBaseLo k v) s

/-- The IRQ level (30 R123). -/
def pnpRegIrqLevel (v : Byte) (_ : Params) : Prog := .cfgWr Config.irqCfgBase v .done

def execPnpRegIrqLevel (v : Byte) (s : State) : Answer :=
  operate (.op (.pnpRegIrqLevel v)) [.mainContext, .key] (pnpRegIrqLevel v) s

/-- The IRQ type (30 R123). -/
def pnpRegIrqType (v : Byte) (_ : Params) : Prog := .cfgWr (Config.irqCfgBase + 1) v .done

def execPnpRegIrqType (v : Byte) (s : State) : Answer :=
  operate (.op (.pnpRegIrqType v)) [.mainContext, .key] (pnpRegIrqType v) s

/-! ## NE2000 command bytes (30 R124): the command accessor on that byte, its page bits ignored (43 R221) -/

/-- The command byte with page bits `ps`. -/
def commandByte (m : Numbers) (cmd : Byte) (ps : BitVec 2) : Byte := cmd ||| (ps.setWidth 8 <<< m.crPs)

/-- `CMD_STOP` (30 R124). -/
def cmdStop (ps : BitVec 2) (c : Params) : Prog := neCommand c (commandByte c.num c.num.cmdStop ps) .done

def execCmdStop (ps : BitVec 2) (s : State) : Answer := operate (.op (.cmdStop ps)) [.bound] (cmdStop ps) s

/-- `CMD_START` (30 R124). -/
def cmdStart (ps : BitVec 2) (c : Params) : Prog := neCommand c (commandByte c.num c.num.cmdStart ps) .done

def execCmdStart (ps : BitVec 2) (s : State) : Answer := operate (.op (.cmdStart ps)) [.bound] (cmdStart ps) s

/-- `CMD_RREAD` (30 R124). -/
def cmdRread (ps : BitVec 2) (c : Params) : Prog := neCommand c (commandByte c.num c.num.cmdRread ps) .done

def execCmdRread (ps : BitVec 2) (s : State) : Answer := operate (.op (.cmdRread ps)) [.bound] (cmdRread ps) s

end Sys2Proof.Machine
end

