-- ==== Sys2Proof/Machine/NicInit.lean ====
section
/-! DEFINITION. The NE2000 initialisation sequence: ids 0x40 to 0x4A (spec 43 section 2). DESIGN CHOICE: a step given
outside its place runs and writes its own `PHASE`, which then goes back (10 R26, 43 R230; log 45). -/

namespace Sys2Proof.Machine

/-! ## Binding (43 R231) -/

/-- Whether the driver binds to this logical device of a card whose data is valid (43 R231). -/
def bindable (l : LogicalDevice) : Bool := l.active && cfgMatch l && decide (1 ≤ l.io.length)

/-- The first logical device in table order that the driver binds to (43 R231). -/
def findNic (s : State) : Option LogicalDevice :=
  (s.dev.flatMap fun d => if d.crd.valid then d.crd.lds else []).find? bindable

/-- The base the allocator gave a logical device's first range. -/
def firstBase (l : LogicalDevice) : Option Half := (l.io.getD 0 IoRange.empty).assigned

/-- What `IOBASE` gets, if there is a logical device to bind to. DESIGN CHOICE: the spec states no result of
`IOBASE <- NONE`, so a base that was never assigned gives a free value (43 R231; log 21). -/
def bindBase (s : State) : Option Half × State :=
  match findNic s with
  | none => (none, s)
  | some l =>
    match firstBase l with
    | some b => (some b, s)
    | none => (some (Config.unassignedBase s.bus.draws), drawn s)

/-- `IOBASE <- b`. -/
def setIobase (b : Half) (s : State) : State := { s with nic := { s.nic with iobase := b } }

/-- `QH <- Q`. -/
def setQh (s : State) : State := { s with nic := { s.nic with qh := .queueQ } }

/-- `NE.BIND`, then what follows it on each of its results (43 R231). -/
def bind (onBound onNone : Prog) : Prog :=
  .base bindBase fun r =>
    match r with
    | none => .upd (raise .noNic) onNone
    | some b => .upd (setIobase b) <| .upd (setPage none) <| .upd setQh <| .upd setBound onBound

/-- `NE.BIND` (43 R231). DESIGN CHOICE: it asks for no `NIC_BOUND = 0`, so a second one binds again (10 R28; log 45). -/
def neBind (_ : Params) : Prog := bind (.answer .ok) .done

def execNeBind (s : State) : Answer := operate (.op .neBind) [.mainContext] neBind s

/-! ## The steps (43 R232 to R240) -/

/-- One poll of the reset status: done when it is set, else again in the next step, without bound (43 R232; log 12). -/
def resetPoll (c : Params) : Prog :=
  .neRd c.num.neIsr fun st =>
    .last (if st.getLsbD c.num.isrRst then setPhase .neReset else push [.resetPoll])

/-- `NE.RESET` (43 R232): read the reset port, write the value back, poll. -/
def neReset (c : Params) : Prog := .neRd c.num.neReset fun v => .neWr c.num.neReset v <| resetPoll c

def execNeReset (s : State) : Answer := operate (.op .neReset) [.mainContext, .bound] neReset s

/-- `NE.BASICINIT` (43 R233). -/
def neBasicinit (c : Params) : Prog :=
  selectPage c .p0 <| neCommand c c.num.cmdStop <| .neWr c.num.neDcr c.dcrInit <| rbcrWrite c 0 <|
    .neWr c.num.neRcr c.rcrInit <| .neWr c.num.neTcr c.tcrInit <| .last (setPhase .neBasicInit)

def execNeBasicinit (s : State) : Answer := operate (.op .neBasicinit) [.mainContext, .bound] neBasicinit s

/-- `PROM[2*i] <- w[7:0]` or `PROM[2*i + 1] <- w[15:8]`; with the first of them the array counts as written. -/
def setProm (i : Nat) (v : Byte) (s : State) : State :=
  { s with nic := { s.nic with prom := s.nic.prom.set i v }, wr := { s.wr with prom := true } }

/-- Words `i` to 15 of the PROM (43 R234); `n` of them are to come. -/
def promWords (c : Params) : Nat → Prog
  | 0 => .done
  | n + 1 => fifoRead16 c fun w =>
    .upd (setProm (2 * (15 - n)) (lo w)) <| .upd (setProm (2 * (15 - n) + 1) (hi w)) <| promWords c n

/-- `NE.PROM` (43 R234): 16 words of the 32 bytes at card address 0. -/
def neProm (c : Params) : Prog := remoteRead c 0x0000 32 <| promWords c 16

def execNeProm (s : State) : Answer := operate (.op .neProm) [.mainContext, .bound] neProm s

/-- `PROM[i]`. -/
def promByte (i : Nat) (s : State) : Byte := s.nic.prom.getD i 0

/-- The first PROM bytes to the physical-address registers, `n` of the six to come, then `k` (43 R235). -/
def parWrites (c : Params) (k : Prog) : Nat → Prog
  | 0 => k
  | n + 1 => .reg8 (promByte (5 - n)) fun b =>
    .neWr (c.num.nePar0 + BitVec.ofNat 16 (5 - n)) b <| parWrites c k n

/-- `NE.MAC` (43 R235). -/
def neMac (c : Params) : Prog :=
  selectPage c .p1 <| parWrites c (.last (setPhase .neMacProgrammed)) Config.macLen

def execNeMac (s : State) : Answer := operate (.op .neMac) [.mainContext, .bound, .written .prom] neMac s

/-- `NEXT_PKT <- v`. -/
def setNextPkt (v : Byte) (s : State) : State :=
  { s with nic := { s.nic with nextPkt := v }, wr := { s.wr with nextPkt := true } }

/-- `NE.RING` (43 R236). -/
def neRing (c : Params) : Prog :=
  selectPage c .p0 <| .neWr c.num.nePstart c.ringStart <| .neWr c.num.nePstop c.ringStop <|
    bnryWrite c c.ringStart <| currWrite c c.ringStart <| selectPage c .p0 <| .upd (setNextPkt c.ringStart) <|
    .last (setPhase .neRingConfigured)

def execNeRing (s : State) : Answer := operate (.op .neRing) [.mainContext, .bound] neRing s

/-- One poll of the reset status: done when it is clear (43 R237; log 12). -/
def startPoll (c : Params) : Prog :=
  .neRd c.num.neIsr fun st =>
    .last (if st.getLsbD c.num.isrRst then push [.startPoll] else setPhase .neStarted)

/-- `NE.START` (43 R237). -/
def neStart (c : Params) : Prog := neCommand c c.num.cmdStart <| startPoll c

def execNeStart (s : State) : Answer := operate (.op .neStart) [.mainContext, .bound] neStart s

/-- `NE.IRQEN` (43 R238). -/
def neIrqen (c : Params) : Prog := selectPage c .p0 <| .neWr c.num.neImr c.imrInit .done

def execNeIrqen (s : State) : Answer := operate (.op .neIrqen) [.mainContext, .bound] neIrqen s

/-- `NE.HOOK` (43 R239): a request, its flag, a request, its flag, the phase. A handler run may start before
the last. -/
def neHook (c : Params) : Prog :=
  .upd (request (.registerHandler c.irqVector)) <| .upd setHandler <| .upd (request (.unmaskLine Config.irqChoice)) <|
    .upd (setLineMasked false) <| .last (setPhase .neInterruptsEnabled)

def execNeHook (s : State) : Answer := operate (.op .neHook) [.mainContext, .bound] neHook s

/-- `NE.LBCLR` (43 R240): the page and the two writes under the guard, then the phase. -/
def neLbclr (c : Params) : Prog :=
  .guardIf (fun k => selectPage c .p0 <| .neWr c.num.neDcr c.dcrRun <| .neWr c.num.neTcr c.tcrRun k) <|
    .last (setPhase .neLoopbackCleared)

def execNeLbclr (s : State) : Answer := operate (.op .neLbclr) [.mainContext, .bound] neLbclr s

/-! ## The whole sequence (43 R241) -/

/-- What `NE.INIT` still has to do from the state `PHASE` names on (43 R230, R241; log 28). -/
def initTail : List Task :=
  [.op .neReset, .op .neBasicinit, .op .neProm, .op .neMac, .op .neRing, .op .neStart, .op .neIrqen, .op .neHook,
    .op .neLbclr, .setPhase .running, .answer .running]

/-- `NE.INIT` (43 R241). -/
def neInit (_ : Params) : Prog := bind (.last (push initTail)) (.last (setPhase .noNic))

def execNeInit (s : State) : Answer := operate (.op .neInit) [.mainContext, .phaseIs .configured] neInit s

end Sys2Proof.Machine
end

