-- ==== Sys2Proof/Machine/Queue.lean ====
section
/-! DEFINITION. The producer-consumer frame queue: ids 0x60 to 0x64 (spec 45). -/

namespace Sys2Proof.Machine

/-- `Q.GUARD: body`: the steps of the body run with `IF = 0`, then `IF` gets its old value back (45 R280). -/
def qGuard (body : List Line) (s : State) : State :=
  push (body.map Task.line ++ [.restoreIf s.fl.ifl]) (setIf false s)

def execQGuard (body : List Line) (s : State) : Answer :=
  operate (.op (.qGuard body)) [] (fun _ => .last (qGuard body)) s

/-- `Q <- Q ++ fs`. -/
def appendQ (fs : List Frame) (s : State) : State := { s with q := s.q ++ fs }

/-- `Q.ENQ` of what `f` gives, then `k` (45 R281). -/
def enqueue (f : State → List Frame) (k : Prog) : Prog := .guardIf (.upd fun s => appendQ (f s) s) k

/-- `Q.ENQ f` (45 R281). -/
def qEnq (f : Frame) (_ : Params) : Prog := enqueue (fun _ => [f]) .done

def execQEnq (f : Frame) (s : State) : Answer := operate (.op (.qEnq f)) [] (qEnq f) s

/-- The body of `Q.DEQ`: the head goes to the caller, who owns it from then on (45 R282, R285). -/
def dequeueBody (s : State) : State :=
  match s.q with
  | [] => setResult .noFrame s
  | f :: rest => setResult (.frame f) { s with q := rest, taken := s.taken ++ [f] }

/-- `Q.DEQ`, then `k` (45 R282). -/
def dequeue (k : Prog) : Prog := .guardIf (.upd dequeueBody) k

/-- `Q.DEQ` (45 R282). -/
def qDeq (_ : Params) : Prog := dequeue .done

def execQDeq (s : State) : Answer := operate (.op .qDeq) [] qDeq s

/-- `Q.SIZE` (45 R283). -/
def qSize (_ : Params) : Prog := .guardIf (.upd fun s => setResult (.count s.q.length) s) .done

def execQSize (s : State) : Answer := operate (.op .qSize) [] qSize s

/-- `Q.WAIT`: dequeue; with none, halt until an interrupt and try again (45 R284). Between the dequeue and the halt a
handler run can start: the window of 70 R335 (1) stays open. -/
def qWait (_ : Params) : Prog :=
  dequeue <| .test (fun s => decide (s.result = .noFrame)) (.last (push [.waitHalt, .op .qWait])) .done

def execQWait (s : State) : Answer := operate (.op .qWait) [.mainContext, .ifOn] qWait s

end Sys2Proof.Machine
end

