-- ==== Sys2Proof/Machine/Receive.lean ====
section
/-! DEFINITION. The receive pipeline: ids 0x50 to 0x5B (spec 44). All of it runs in the interrupt context, where
nothing splits it (60 R304). -/

namespace Sys2Proof.Machine

/-- What every receive operation needs (44, the lines before R260). -/
def rxReqs : List Req := [.irqContext, .bound, .handlerLive]

/-- A ring page as a card address (20 R74). -/
def pageAddress (p : Byte) : Half := pair p 0

/-- `NEXT_PKT`. -/
def nextPkt (s : State) : Byte := s.nic.nextPkt

/-- Whether a frame is pending is given to `k` (44 R261). -/
def rxPending (c : Params) (k : Bool → Prog) : Prog :=
  currRead c fun p => .reg8 nextPkt fun n => k (decide (n ≠ p))

/-- `RX.PENDING` (44 R261). -/
def rxPendingOp (c : Params) : Prog := rxPending c fun b => .answer (.bool b)

def execRxPending (s : State) : Answer :=
  operate (.op .rxPending) (rxReqs ++ [.written .nextPkt]) rxPendingOp s

/-- The three header fields of two FIFO words (30 R126). -/
def setHeader (w0 w1 : Half) (s : State) : State :=
  { s with
    rx := { s.rx with hdrStatus := lo w0, hdrNext := hi w0, hdrTotal := w1 }
    wr := { s.wr with hdr := true } }

/-- `RX.HDR`, then `k` (44 R262). -/
def rxHdr (c : Params) (k : Prog) : Prog :=
  .reg8 nextPkt fun n => remoteRead c (pageAddress n) Config.hdrLen <|
    fifoRead16 c fun w0 => fifoRead16 c fun w1 => .upd (setHeader w0 w1) k

/-- `RX.HDR` (44 R262). -/
def rxHdrOp (c : Params) : Prog := rxHdr c .done

def execRxHdr (s : State) : Answer := operate (.op .rxHdr) (rxReqs ++ [.written .nextPkt]) rxHdrOp s

/-- `HDR_TOTAL < 64` (44 R263). -/
def isRunt (s : State) : Bool := decide (s.rx.hdrTotal.toNat < Config.runtMin.toNat)

/-- `log Runt(HDR_TOTAL)`. -/
def logRunt (s : State) : State := logFailure (.runt s.rx.hdrTotal) s

/-- `RX.RUNT`: on to one of two continuations (44 R263). -/
def rxRunt (yes no : Prog) : Prog := .test isRunt (.upd logRunt yes) no

/-- `RX.RUNT` (44 R263). -/
def rxRuntOp (_ : Params) : Prog := rxRunt (.answer (.bool true)) (.answer (.bool false))

def execRxRunt (s : State) : Answer := operate (.op .rxRunt) (rxReqs ++ [.written .hdr]) rxRuntOp s

/-- `FR <- r`. -/
def setFr (r : Option FrameRec) (s : State) : State :=
  { s with rx := { s.rx with fr := r }, wr := { s.wr with fr := true } }

/-- A read of the fields of `FR`. DESIGN CHOICE: after `FR <- NONE` they are free values (log 46). -/
def readFr (s : State) : FrameRec × State :=
  match s.rx.fr with
  | some r => (r, s)
  | none =>
    let f := Config.unfilledFrame s.bus.draws
    (⟨f.record, f.buffer, f.length, some f.eth⟩, drawn s)

/-- A read of `FR` with its addresses. DESIGN CHOICE: before `RX.ADDR` has read them they are free values (log 46). -/
def readFilledFr (s : State) : FrameRec × State :=
  let p := readFr s
  if p.1.eth.isSome then p else ({ p.1 with eth := some (Config.unfilledFrame p.2.bus.draws).eth }, drawn p.2)

/-- A part that reads `FR`. -/
def Prog.frameRec (f : State → FrameRec × State) (k : FrameRec → Prog) : Prog :=
  .act (fun s => let p := f s; (.frameRec p.1, p.2)) fun
    | .frameRec r => k r
    | _ => .done

/-- `HDR_TOTAL - 18` (44 R264; log 26). -/
def payloadSize (s : State) : Half := s.rx.hdrTotal - Config.frameOverhead

/-- `RX.ALLOC`: the record first, then the payload, and whether both succeeded to `k` (44 R264). DESIGN CHOICE: where
the rule writes `log F ; return fail` the result is the failure `F` itself (log 25). -/
def rxAlloc (c : Params) (k : Bool → Prog) : Prog :=
  .handle (allocate c.frameRecSize) fun
    | none => .log .allocFrame <| .upd (setFr none) <| .upd (setResult (.failed .allocFrame)) (k false)
    | some record => .reg16 payloadSize fun size => .handle (allocate size.toNat) fun
      | none =>
        .upd (release record) <| .upd (setFr none) <| .log (.allocPayload size) <|
          .upd (setResult (.failed (.allocPayload size))) (k false)
      | some buffer => .upd (setFr (some ⟨record, buffer, size, none⟩)) <| .upd (setResult .ok) (k true)

/-- `RX.ALLOC` (44 R264). -/
def rxAllocOp (c : Params) : Prog := rxAlloc c fun _ => .done

/-- What `RX.ALLOC` needs: the header for the payload's size, which a refused record does not ask for (44 R264). -/
def allocReqs (s : State) : List Req := rxReqs ++ if s.bus.allocAnswer.1 then [.written .hdr] else []

def execRxAlloc (s : State) : Answer := operate (.op .rxAlloc) (allocReqs s) rxAllocOp s

/-- `roundup2(HDR_TOTAL - 4)` (44 R265; log 26). -/
def bodyCount (s : State) : Half := roundup2 (s.rx.hdrTotal - Config.hdrLen)

/-- The addresses and the Ethertype of seven FIFO words (30 R127). -/
def ethOfWords (ws : List Half) : EthHeader :=
  let w (i : Nat) : Half := ws.getD i 0
  ⟨macOfWords (w 0) (w 1) (w 2), macOfWords (w 3) (w 4) (w 5), pair (lo (w 6)) (hi (w 6))⟩

/-- `FR.dst`, `FR.src`, `ETYPE` and `FR.ethertype` (44 R265). With `FR = NONE`, or `FR` not written yet, there is no
record to fill; the rule only writes `FR`, so neither stops it (log 46). -/
def setAddresses (e : EthHeader) (s : State) : State :=
  { s with
    rx := { s.rx with etype := e.ethertype, fr := s.rx.fr.map fun f => { f with eth := some e } }
    wr := { s.wr with etype := true } }

/-- `RX.ADDR`, then `k` (44 R265). -/
def rxAddr (c : Params) (k : Prog) : Prog :=
  .reg8 nextPkt fun n => .reg16 bodyCount fun count =>
    remoteRead c (pageAddress n + Config.hdrLen) count <|
      fifoWords c (fun ws => .upd (setAddresses (ethOfWords ws)) k) 7 []

/-- `RX.ADDR` (44 R265). -/
def rxAddrOp (c : Params) : Prog := rxAddr c .done

def execRxAddr (s : State) : Answer :=
  operate (.op .rxAddr) (rxReqs ++ [.written .nextPkt, .written .hdr, .nonzero (bodyCount s)]) rxAddrOp s

/-- `ETYPE > 0x0600` (44 R266, 30 R128). -/
def isEthernetII (s : State) : Bool := decide (Config.eth2Threshold.toNat < s.rx.etype.toNat)

/-- `RX.CLASSIFY` (44 R266). -/
def rxClassify (_ : Params) : Prog := .last fun s => setResult (if isEthernetII s then .etherII else .etherI) s

def execRxClassify (s : State) : Answer := operate (.op .rxClassify) (rxReqs ++ [.written .etype]) rxClassify s

/-- `n` payload bytes from the FIFO: words, and one byte more if `n` is odd (44 R267). -/
def readPayload (c : Params) (n : Nat) (k : List Byte → Prog) : Prog :=
  fifoWords c (fun ws => if n % 2 = 1 then fifoRead8 c fun b => k (wordsBytes ws ++ [b]) else k (wordsBytes ws))
    (n / 2) []

/-- The frame record with its payload (44 R267). -/
def completeFrame (r : FrameRec) (payload : List Byte) : List Frame :=
  r.eth.toList.map fun e => ⟨r.record, r.buffer, e, r.length, payload⟩

/-- `RX.PAYLOAD`, then `k` (44 R267). -/
def rxPayload (c : Params) (k : Prog) : Prog :=
  .frameRec readFilledFr fun r => readPayload c r.length.toNat fun bytes =>
    enqueue (fun _ => completeFrame r bytes) <| .upd (setFr none) k

/-- `RX.PAYLOAD` (44 R267). -/
def rxPayloadOp (c : Params) : Prog := rxPayload c .done

def execRxPayload (s : State) : Answer :=
  operate (.op .rxPayload) (rxReqs ++ [.written .fr]) rxPayloadOp s

/-- `RX.DROP`: both allocations go back, then `k` (44 R268). -/
def rxDrop (k : Prog) : Prog :=
  .frameRec readFr fun r => .upd (release r.buffer) <| .upd (release r.record) <| .upd (setFr none) <|
    .upd (fun s => logFailure (.ethernetI s.rx.etype) s) k

/-- `RX.DROP` (44 R268). -/
def rxDropOp (_ : Params) : Prog := rxDrop .done

def execRxDrop (s : State) : Answer :=
  operate (.op .rxDrop) (rxReqs ++ [.written .fr, .written .etype]) rxDropOp s

/-- `NEXT_PKT <- HDR_NEXT`. -/
def advanceNext (s : State) : State :=
  { s with nic := { s.nic with nextPkt := s.rx.hdrNext }, wr := { s.wr with nextPkt := true } }

/-- `RX.ADVANCE`, then `k` (44 R269): no ring correction of the boundary (70 R328). -/
def rxAdvance (c : Params) (k : Prog) : Prog :=
  .upd advanceNext <| neCommand c c.num.cmdNodma <| .reg8 nextPkt fun n => bnryWrite c (n - 1) k

/-- `RX.ADVANCE` (44 R269). -/
def rxAdvanceOp (c : Params) : Prog := rxAdvance c .done

def execRxAdvance (s : State) : Answer := operate (.op .rxAdvance) (rxReqs ++ [.written .hdr]) rxAdvanceOp s

/-- What is done with a frame that is no runt, then `k` (44 R270). -/
def rxAccept (c : Params) (k : Prog) : Prog :=
  rxAlloc c fun ok => if ok then rxAddr c <| .test isEthernetII (rxPayload c k) (rxDrop k) else k

/-- `RX.FRAME`, one iteration, then `k` (44 R270). -/
def rxFrame (c : Params) (k : Prog) : Prog := rxHdr c <| rxRunt (rxAdvance c k) (rxAccept c <| rxAdvance c k)

/-- `RX.FRAME` (44 R270). -/
def rxFrameOp (c : Params) : Prog := rxFrame c .done

def execRxFrame (s : State) : Answer := operate (.op .rxFrame) (rxReqs ++ [.written .nextPkt]) rxFrameOp s

/-- `ISRSEEN`. -/
def isrseen (s : State) : Byte := s.rx.isrseen

/-- `RX.ACK` (44 R271): the observed bits are written back. -/
def rxAck (c : Params) : Prog := selectPage c .p0 <| .reg8 isrseen fun v => .neWr c.num.neIsr v .done

def execRxAck (s : State) : Answer := operate (.op .rxAck) (rxReqs ++ [.written .isrseen]) rxAck s

/-- `ISRSEEN <- v`. -/
def setIsrseen (v : Byte) (s : State) : State :=
  { s with rx := { s.rx with isrseen := v }, wr := { s.wr with isrseen := true } }

/-- `RX.IRQ` (44 R260): `NE.PAGE 0 ; ISRSEEN <- NeRead(NE_ISR)`, then the loop. -/
def rxIrq (c : Params) : Prog :=
  selectPage c .p0 <| .neRd c.num.neIsr fun v => .upd (setIsrseen v) <| .last (push [.irqLoop])

def execRxIrq (s : State) : Answer := operate (.op .rxIrq) (rxReqs ++ [.written .nextPkt]) rxIrq s

/-- One turn of the handler's loop: a pending frame and again, or the acknowledgement (44 R260). -/
def irqLoop (c : Params) : Prog := rxPending c fun b => if b then rxFrame c (.last (push [.irqLoop])) else rxAck c

end Sys2Proof.Machine
end

