-- ==== Sys2Proof/Machine/Dispatch.lean ====
section
/-! DEFINITION. Which meaning each instruction has. -/

namespace Sys2Proof.Machine

def exec (i : Instr) (s : State) : Host.Outcome State Fault Refusal :=
  match i with
  | .lfsrShift r b => Sys2Proof.Machine.execLfsrShift r b s
  | .keySend => Sys2Proof.Machine.execKeySend s
  | .pnpAddr reg => Sys2Proof.Machine.execPnpAddr reg s
  | .pnpWr reg v => Sys2Proof.Machine.execPnpWr reg v s
  | .pnpRd reg => Sys2Proof.Machine.execPnpRd reg s
  | .pnpWake csn => Sys2Proof.Machine.execPnpWake csn s
  | .pnpSetrdp p => Sys2Proof.Machine.execPnpSetrdp p s
  | .pnpIsosel => Sys2Proof.Machine.execPnpIsosel s
  | .pnpSetcsn n => Sys2Proof.Machine.execPnpSetcsn n s
  | .idSample => Sys2Proof.Machine.execIdSample s
  | .idRead => Sys2Proof.Machine.execIdRead s
  | .idDecode => Sys2Proof.Machine.execIdDecode s
  | .isoRound first => Sys2Proof.Machine.execIsoRound first s
  | .isoEnum => Sys2Proof.Machine.execIsoEnum s
  | .pnpEngine => Sys2Proof.Machine.execPnpEngine s
  | .rdByte => Sys2Proof.Machine.execRdByte s
  | .rdHeader => Sys2Proof.Machine.execRdHeader s
  | .rdBody len => Sys2Proof.Machine.execRdBody len s
  | .recVersion body => Sys2Proof.Machine.execRecVersion body s
  | .recLogdev body => Sys2Proof.Machine.execRecLogdev body s
  | .recCompat body => Sys2Proof.Machine.execRecCompat body s
  | .recIrq body => Sys2Proof.Machine.execRecIrq body s
  | .recDma body => Sys2Proof.Machine.execRecDma body s
  | .recIoport body => Sys2Proof.Machine.execRecIoport body s
  | .recAnsi body => Sys2Proof.Machine.execRecAnsi body s
  | .recEnd body => Sys2Proof.Machine.execRecEnd body s
  | .recMem body => Sys2Proof.Machine.execRecMem body s
  | .recMem32 body => Sys2Proof.Machine.execRecMem32 body s
  | .recUnknown form tag => Sys2Proof.Machine.execRecUnknown form tag s
  | .rdDecode d => Sys2Proof.Machine.execRdDecode d s
  | .cfgMatch d l => Sys2Proof.Machine.execCfgMatch d l s
  | .cfgSelect d l => Sys2Proof.Machine.execCfgSelect d l s
  | .cfgIo d l k => Sys2Proof.Machine.execCfgIo d l k s
  | .cfgProbe base len => Sys2Proof.Machine.execCfgProbe base len s
  | .cfgIrq d l => Sys2Proof.Machine.execCfgIrq d l s
  | .cfgActivate d l => Sys2Proof.Machine.execCfgActivate d l s
  | .cfgDevice d l => Sys2Proof.Machine.execCfgDevice d l s
  | .cfgAll => Sys2Proof.Machine.execCfgAll s
  | .nePage p => Sys2Proof.Machine.execNePage p s
  | .neCmd cmd => Sys2Proof.Machine.execNeCmd cmd s
  | .neBnryWr v => Sys2Proof.Machine.execNeBnryWr v s
  | .neCurrWr v => Sys2Proof.Machine.execNeCurrWr v s
  | .neRsar addr => Sys2Proof.Machine.execNeRsar addr s
  | .neRbcr count => Sys2Proof.Machine.execNeRbcr count s
  | .neRdmaRead addr count => Sys2Proof.Machine.execNeRdmaRead addr count s
  | .neFifoRd16 => Sys2Proof.Machine.execNeFifoRd16 s
  | .neDmaStop => Sys2Proof.Machine.execNeDmaStop s
  | .neRegWr reg v => Sys2Proof.Machine.execNeRegWr reg v s
  | .neBnryRd => Sys2Proof.Machine.execNeBnryRd s
  | .neCurrRd => Sys2Proof.Machine.execNeCurrRd s
  | .neRegRd reg => Sys2Proof.Machine.execNeRegRd reg s
  | .neFifoRd8 => Sys2Proof.Machine.execNeFifoRd8 s
  | .neBind => Sys2Proof.Machine.execNeBind s
  | .neReset => Sys2Proof.Machine.execNeReset s
  | .neBasicinit => Sys2Proof.Machine.execNeBasicinit s
  | .neProm => Sys2Proof.Machine.execNeProm s
  | .neMac => Sys2Proof.Machine.execNeMac s
  | .neRing => Sys2Proof.Machine.execNeRing s
  | .neStart => Sys2Proof.Machine.execNeStart s
  | .neIrqen => Sys2Proof.Machine.execNeIrqen s
  | .neHook => Sys2Proof.Machine.execNeHook s
  | .neLbclr => Sys2Proof.Machine.execNeLbclr s
  | .neInit => Sys2Proof.Machine.execNeInit s
  | .rxIrq => Sys2Proof.Machine.execRxIrq s
  | .rxPending => Sys2Proof.Machine.execRxPending s
  | .rxHdr => Sys2Proof.Machine.execRxHdr s
  | .rxRunt => Sys2Proof.Machine.execRxRunt s
  | .rxAlloc => Sys2Proof.Machine.execRxAlloc s
  | .rxAddr => Sys2Proof.Machine.execRxAddr s
  | .rxClassify => Sys2Proof.Machine.execRxClassify s
  | .rxPayload => Sys2Proof.Machine.execRxPayload s
  | .rxDrop => Sys2Proof.Machine.execRxDrop s
  | .rxAdvance => Sys2Proof.Machine.execRxAdvance s
  | .rxFrame => Sys2Proof.Machine.execRxFrame s
  | .rxAck => Sys2Proof.Machine.execRxAck s
  | .qGuard body => Sys2Proof.Machine.execQGuard body s
  | .qEnq f => Sys2Proof.Machine.execQEnq f s
  | .qDeq => Sys2Proof.Machine.execQDeq s
  | .qSize => Sys2Proof.Machine.execQSize s
  | .qWait => Sys2Proof.Machine.execQWait s
  | .tagVersion len => Sys2Proof.Machine.execTagVersion len s
  | .tagLogdev len => Sys2Proof.Machine.execTagLogdev len s
  | .tagCompat len => Sys2Proof.Machine.execTagCompat len s
  | .tagIrq len => Sys2Proof.Machine.execTagIrq len s
  | .tagDma len => Sys2Proof.Machine.execTagDma len s
  | .tagIoport len => Sys2Proof.Machine.execTagIoport len s
  | .tagEnd len => Sys2Proof.Machine.execTagEnd len s
  | .smallUnknown0 len => Sys2Proof.Machine.execSmallUnknown0 len s
  | .smallUnknown6 len => Sys2Proof.Machine.execSmallUnknown6 len s
  | .smallUnknown7 len => Sys2Proof.Machine.execSmallUnknown7 len s
  | .smallUnknown9 len => Sys2Proof.Machine.execSmallUnknown9 len s
  | .smallUnknownA len => Sys2Proof.Machine.execSmallUnknownA len s
  | .smallUnknownB len => Sys2Proof.Machine.execSmallUnknownB len s
  | .smallUnknownC len => Sys2Proof.Machine.execSmallUnknownC len s
  | .smallUnknownD len => Sys2Proof.Machine.execSmallUnknownD len s
  | .smallUnknownE len => Sys2Proof.Machine.execSmallUnknownE len s
  | .tagMem len => Sys2Proof.Machine.execTagMem len s
  | .tagAnsi len => Sys2Proof.Machine.execTagAnsi len s
  | .tagMem32 len => Sys2Proof.Machine.execTagMem32 len s
  | .largeUnknown tag len => Sys2Proof.Machine.execLargeUnknown tag len s
  | .sampleOne => Sys2Proof.Machine.execSampleOne s
  | .sampleZero => Sys2Proof.Machine.execSampleZero s
  | .sampleNocard sample => Sys2Proof.Machine.execSampleNocard sample s
  | .pnpRegSetRdData v => Sys2Proof.Machine.execPnpRegSetRdData v s
  | .pnpRegSerialIsolation => Sys2Proof.Machine.execPnpRegSerialIsolation s
  | .pnpRegConfigControl v => Sys2Proof.Machine.execPnpRegConfigControl v s
  | .pnpRegWake v => Sys2Proof.Machine.execPnpRegWake v s
  | .pnpRegResourceData => Sys2Proof.Machine.execPnpRegResourceData s
  | .pnpRegStatus => Sys2Proof.Machine.execPnpRegStatus s
  | .pnpRegCsn v => Sys2Proof.Machine.execPnpRegCsn v s
  | .pnpRegLogicalDevice v => Sys2Proof.Machine.execPnpRegLogicalDevice v s
  | .pnpRegActivate v => Sys2Proof.Machine.execPnpRegActivate v s
  | .pnpRegIoRangeCheck v => Sys2Proof.Machine.execPnpRegIoRangeCheck v s
  | .pnpRegIoBaseHi k v => Sys2Proof.Machine.execPnpRegIoBaseHi k v s
  | .pnpRegIoBaseLo k v => Sys2Proof.Machine.execPnpRegIoBaseLo k v s
  | .pnpRegIrqLevel v => Sys2Proof.Machine.execPnpRegIrqLevel v s
  | .pnpRegIrqType v => Sys2Proof.Machine.execPnpRegIrqType v s
  | .cmdStop ps => Sys2Proof.Machine.execCmdStop ps s
  | .cmdStart ps => Sys2Proof.Machine.execCmdStart ps s
  | .cmdRread ps => Sys2Proof.Machine.execCmdRread ps s

end Sys2Proof.Machine
end

