-- ==== Sys2Proof/Machine/Programs.lean ====
section
/-! DEFINITION. The program of each operation that has more than one part: what a handler run that splits it leaves to
be done (60 R301, R307; log 10). -/

namespace Sys2Proof.Machine

/-- The parts of an operation. An operation of one part is never split and has none here. -/
def instrProg (c : Params) : Instr → Prog
  | .keySend => keySend c
  | .pnpWr reg v => pnpWr reg v c
  | .pnpRd reg => pnpRd reg c
  | .pnpWake csn => pnpWake csn c
  | .pnpSetrdp p => pnpSetrdp p c
  | .pnpSetcsn n => pnpSetcsn n c
  | .idSample => idSampleOp c
  | .idRead => idReadOp c
  | .isoRound first => isoRound first c
  | .rdByte => rdByte c
  | .rdHeader => rdHeader c
  | .rdBody len => rdBody len c
  | .recVersion body => recVersion body c
  | .recLogdev body => recLogdev body c
  | .recCompat body => recCompat body c
  | .recIrq body => recIrq body c
  | .recDma body => recDma body c
  | .recIoport body => recIoport body c
  | .recAnsi body => recAnsi body c
  | .recMem body => recMem body c
  | .recMem32 body => recMem32 body c
  | .rdDecode d => rdDecode d c
  | .cfgMatch d l => cfgMatchOp d l c
  | .cfgSelect d l => cfgSelectOp d l c
  | .cfgIo d l k => cfgIoOp d l k c
  | .cfgProbe base len => cfgProbeOp base len c
  | .cfgIrq d l => cfgIrqOp d l c
  | .cfgActivate d l => cfgActivateOp d l c
  | .cfgDevice d l => cfgDeviceOp d l c
  | .cfgAll => cfgAll c
  | .nePage p => nePage p c
  | .neCmd cmd => neCmd cmd c
  | .neBnryWr v => neBnryWr v c
  | .neCurrWr v => neCurrWr v c
  | .neRsar addr => neRsar addr c
  | .neRbcr count => neRbcr count c
  | .neRdmaRead addr count => neRdmaRead addr count c
  | .neFifoRd16 => neFifoRd16 c
  | .neDmaStop => neDmaStop c
  | .neBnryRd => neBnryRd c
  | .neCurrRd => neCurrRd c
  | .neRegRd reg => neRegRd reg c
  | .neFifoRd8 => neFifoRd8 c
  | .neBind => neBind c
  | .neReset => neReset c
  | .neBasicinit => neBasicinit c
  | .neProm => neProm c
  | .neMac => neMac c
  | .neRing => neRing c
  | .neStart => neStart c
  | .neIrqen => neIrqen c
  | .neHook => neHook c
  | .neLbclr => neLbclr c
  | .neInit => neInit c
  | .rxIrq => rxIrq c
  | .rxPending => rxPendingOp c
  | .rxHdr => rxHdrOp c
  | .rxRunt => rxRuntOp c
  | .rxAlloc => rxAllocOp c
  | .rxAddr => rxAddrOp c
  | .rxPayload => rxPayloadOp c
  | .rxDrop => rxDropOp c
  | .rxAdvance => rxAdvanceOp c
  | .rxFrame => rxFrameOp c
  | .rxAck => rxAck c
  | .qEnq f => qEnq f c
  | .qDeq => qDeq c
  | .qSize => qSize c
  | .qWait => qWait c
  | .tagVersion len => tagVersion len c
  | .tagLogdev len => tagLogdev len c
  | .tagCompat len => tagCompat len c
  | .tagIrq len => tagIrq len c
  | .tagDma len => tagDma len c
  | .tagIoport len => tagIoport len c
  | .tagEnd len => tagEnd len c
  | .tagMem len => tagMem len c
  | .tagAnsi len => tagAnsi len c
  | .tagMem32 len => tagMem32 len c
  | .pnpRegSetRdData v => pnpRegSetRdData v c
  | .pnpRegConfigControl v => pnpRegConfigControl v c
  | .pnpRegWake v => pnpRegWake v c
  | .pnpRegCsn v => pnpRegCsn v c
  | .pnpRegLogicalDevice v => pnpRegLogicalDevice v c
  | .pnpRegActivate v => pnpRegActivate v c
  | .pnpRegIoRangeCheck v => pnpRegIoRangeCheck v c
  | .pnpRegSerialIsolation => pnpRegSerialIsolation c
  | .pnpRegResourceData => pnpRegResourceData c
  | .pnpRegStatus => pnpRegStatus c
  | .pnpRegIoBaseHi k v => pnpRegIoBaseHi k v c
  | .pnpRegIoBaseLo k v => pnpRegIoBaseLo k v c
  | .pnpRegIrqLevel v => pnpRegIrqLevel v c
  | .pnpRegIrqType v => pnpRegIrqType v c
  | .cmdStop ps => cmdStop ps c
  | .cmdStart ps => cmdStart ps c
  | .cmdRread ps => cmdRread ps c
  | .lfsrShift _ _ => .done
  | .pnpAddr _ => .done
  | .pnpIsosel => .done
  | .idDecode => .done
  | .isoEnum => .done
  | .pnpEngine => .done
  | .recEnd _ => .done
  | .recUnknown _ _ => .done
  | .neRegWr _ _ => .done
  | .rxClassify => .done
  | .qGuard _ => .done
  | .smallUnknown0 _ => .done
  | .smallUnknown6 _ => .done
  | .smallUnknown7 _ => .done
  | .smallUnknown9 _ => .done
  | .smallUnknownA _ => .done
  | .smallUnknownB _ => .done
  | .smallUnknownC _ => .done
  | .smallUnknownD _ => .done
  | .smallUnknownE _ => .done
  | .largeUnknown _ _ => .done
  | .sampleOne => .done
  | .sampleZero => .done
  | .sampleNocard _ => .done

/-- The parts of a step that is more than one. -/
def taskProg (c : Params) : Task → Prog
  | .op i => instrProg c i
  | .enumAt k => enumAt k c
  | .enumRounds k first found => enumRounds k first found c
  | .enumAfter k found => enumAfter k found c
  | .headerRest got => headerRest got c
  | .bodyRest u n got => readBody u c n got
  | .resetPoll => resetPoll c
  | .startPoll => startPoll c
  | .irqLoop => irqLoop c
  | .line _ => .done
  | .setPhase _ => .done
  | .answer _ => .done
  | .restoreIf _ => .done
  | .decodeDispatch => .done
  | .decodeNext => .done
  | .waitHalt => .done
  | .resume _ _ => .done

/-- A step that a handler run has split goes on: the parts left after what it has read, latest first (60 R303). Its
preconditions held when it began. -/
def resumeTask (t : Task) (got : List Val) (s : State) : State := ((taskProg s.cfg t).after got.reverse).run t got s

end Sys2Proof.Machine
end

