-- ==== Sys2Proof/Machine/Sequencer.lean ====
section
/-! DEFINITION. What a context does next: the steps it still has to make, the engine's fixed sequence when it has none
(70 R323), idling, and how a program line is placed in front (30 R131; log 3). -/

namespace Sys2Proof.Machine

/-- One step of a context (log 10). A program line is decoded here, under the numbers of the parameters. -/
def runTask (t : Task) (s : State) : Answer :=
  match t with
  | .line l =>
    match decodeAt s.cfg.num l.fmt l.bytes with
    | .ok (i, _) => exec i s
    | .error e => .refused (.undecodable e)
  | .op i => exec i s
  | .setPhase p => .next (setPhase p s)
  | .answer r => .next (setResult r s)
  | .restoreIf b => .next (setIf b s)
  | .enumAt k => operate t [.mainContext, .key] (enumAt k) s
  | .enumRounds k first found => operate t [.mainContext, .key] (enumRounds k first found) s
  | .enumAfter k found => operate t [.mainContext, .key] (enumAfter k found) s
  | .headerRest got => operate t ([.mainContext, .key] ++ readReqs) (headerRest got) s
  | .bodyRest u n got => operate t ([.mainContext, .key] ++ bodyReqs n) (fun c => readBody u c n got) s
  | .decodeDispatch => guarded [.mainContext, .key] decodeDispatch s
  | .decodeNext => guarded [.mainContext, .key, .decoding] decodeNext s
  | .resetPoll => operate t [.mainContext, .bound] resetPoll s
  | .startPoll => operate t [.mainContext, .bound] startPoll s
  | .irqLoop => operate t (rxReqs ++ [.written .nextPkt, .written .isrseen]) irqLoop s
  | .waitHalt => guarded [.mainContext, .ifOn] (setHalted true) s
  | .resume t got => guarded [.mainContext] (resumeTask t got) s

/-- What the main context does after the phase it has reached (70 R323; log 28). In `Running` and `NoNic` that is the
consumer loop, for ever. -/
def mainSequence : Phase → List Task
  | .powerOn => [.op .pnpEngine]
  | .keySent => [.op .isoEnum, .op .cfgAll, .setPhase .configured]
  | .scanning _ => []
  | .enumerated => [.op .cfgAll, .setPhase .configured]
  | .configured => [.op .neInit]
  | .neReset => initTail.drop 1
  | .neBasicInit => initTail.drop 2
  | .neMacProgrammed => initTail.drop 4
  | .neRingConfigured => initTail.drop 5
  | .neStarted => initTail.drop 6
  | .neInterruptsEnabled => initTail.drop 8
  | .neLoopbackCleared => initTail.drop 9
  | .running => [.op .qWait]
  | .noNic => [.op .qWait]

/-- A step in which the running context does nothing: the environment's time passes (60 R313). -/
def idle (s : State) : State := { s with bus := { s.bus with agents := s.bus.agents.map (Agents.tick s.cfg.num) } }

/-- The steps the running context has before it: its own, and for a main context with none left the sequence's. -/
def State.agenda (s : State) : List Task :=
  if s.ctl.inIrq then s.ctl.irq.todo
  else if s.fl.halted then []
  else match s.ctl.main.todo with
    | [] => mainSequence s.phase
    | ts => ts

/-- Replace what the running context still has to do. -/
def setTodo (ts : List Task) (s : State) : State := s.setActive { s.active with todo := ts }

/-- A boundary after a step that answers a next state. -/
def afterStep (a : Answer) : Answer :=
  match a with
  | .next s => .next (boundary s)
  | .fault f => .fault f
  | .refused r => .refused r

/-- One step under parameters that meet their constraints: the first step of the agenda, or idling. -/
def stepOnce (s : State) : Answer :=
  match s.agenda with
  | [] => .next (boundary (idle s))
  | t :: ts => afterStep (runTask t (setTodo ts s))

/-- Place a program line in front of what the running context has to do, and let it run (log 3). -/
def placeLine (l : Line) (s : State) : State :=
  push [.line l] (if s.ctl.inIrq then s else setHalted false s)

end Sys2Proof.Machine
end

