-- ==== Sys2Proof/Machine/Step.lean ====
section
/-! DEFINITION. One step of the machine, and how the host places an instruction (log 3, 10). -/

namespace Sys2Proof.Machine

/-- One step. Parameters outside their constraints are refused (93 U21). -/
def step (s : State) : Host.Outcome State Fault Refusal :=
  if s.cfg.ok then stepOnce s else .refused .badParameters

/-- `s` with the opcode-table word `w` as the line its running context takes next. -/
def State.withFetchWord (s : State) (nbits w : Nat) : State :=
  placeLine (tableLine (tableFormat nbits w) nbits w) s

end Sys2Proof.Machine
end

