-- ==== Sys2Proof/Safety.lean ====
section
/-! DEFINITION. What claims speak of: what an operation leaves alone, the invariants of a run, and the answers that
stand for an identifier, a ready card or a floating bus. -/

namespace Sys2Proof

open Machine

/-! ## Frames -/

/-- From `s` to `t` the port accesses `es` were made, in this order, and nothing else changed: besides the traffic,
only the environment (its agents and the answers it had to give) may differ. -/
def PortsOnly (es : List Event) (s t : State) : Prop :=
  t = { s with
    bus := { s.bus with
      trace := s.bus.trace ++ es
      answers := t.bus.answers
      draws := t.bus.draws
      agents := t.bus.agents } }

/-- The byte at an address of the card memory of NIC `n`; 0 where there is none. -/
def cardByte (s : State) (n a : Nat) : Byte :=
  match s.bus.agents with
  | none => Memory.unlisted
  | some g =>
    match g.nics[n]? with
    | none => Memory.unlisted
    | some c => Memory.read c.mem a

/-- No frame is on its way to a NIC. -/
def QuietWire (s : State) : Prop := ∀ g, s.bus.agents = some g → g.wire = []

/-! ## Port accesses as the spec writes them -/

/-- The two writes of a card-register write `(reg, v)` (30 R105). -/
def cfgPair (reg v : Byte) : List Event := [.wr8 0x279 reg, .wr8 0xA79 v]

/-- The two accesses of a card-register read of `reg` at read port `p` giving `v` (30 R105). -/
def cfgGet (p : Half) (reg v : Byte) : List Event := [.wr8 0x279 reg, .rd8 p v]

/-- The answers of one identifier bit (30 R101). -/
def sampleAnswers (b : Bool) : List Half := if b then [0x55, 0xAA] else [0xFF, 0xFF]

/-- The answers of a whole identifier, bit 0 of byte 0 first (30 R103). -/
def idAnswers (x : BitVec 72) : List Half := (List.range 72).flatMap fun k => sampleAnswers (x.getLsbD k)

/-- The LFSR after the 64 data bits of an identifier (40 R150). -/
def idChecksum (x : BitVec 72) : Byte :=
  (List.range 64).foldl (fun r k => lfsrShift r (x.getLsbD k)) 0x6A

/-- The answers of a card that is ready for each byte of a stream (41 R170). -/
def readyAnswers (bs : List Byte) : List Half := bs.flatMap fun b => [0x01, b.setWidth 16]

/-- The accesses that read a stream from a ready card at read port `p` (95 section 3.4). -/
def readyTrace (m : Numbers) (p : Half) (bs : List Byte) : List Event :=
  bs.flatMap fun b => [.wr8 0x279 m.status, .rd8 p 0x01, .wr8 0x279 m.resourceData, .rd8 p b]

/-- The sum of a byte string modulo 256 (10 R25). -/
def byteSum (bs : List Byte) : Byte := bs.foldl (· + ·) 0

/-! ## Sequences the statements share -/

/-- The accesses that select page `p`, the command register reading `v`: none when it is selected (43 R220). -/
def pageTrace (s : State) (p : RegPage) (v : Byte) : List Event :=
  if s.nic.page = some p then []
  else [.rd8 (s.nic.iobase + s.cfg.num.neCr) v, .wr8 (s.nic.iobase + s.cfg.num.neCr) (pageCommand s.cfg.num v p)]

/-- The page select bits of the page last selected, 0 when none is known (43 R221). -/
def shadowBits (s : State) : Byte :=
  match s.nic.page with
  | some p => pageNumber p <<< s.cfg.num.crPs
  | none => 0

/-- A byte write at an offset of the NE2000 window. -/
def neWr (s : State) (off : Half) (v : Byte) : Event := .wr8 (s.nic.iobase + off) v

/-- The state with page `p` selected. -/
def onPage (p : RegPage) (s : State) : State := { s with nic := { s.nic with page := some p } }

/-- The writes of a remote read of `count` bytes at `addr`, page 0 selected (30 R125). -/
def rdmaTrace (s : State) (addr count : Half) : List Event :=
  [neWr s s.cfg.num.neRsar0 (lo addr), neWr s s.cfg.num.neRsar1 (hi addr), neWr s s.cfg.num.neRbcr0 (lo count),
    neWr s s.cfg.num.neRbcr1 (hi count), neWr s s.cfg.num.neCr (s.cfg.num.cmdRread &&& cmdMask s.cfg.num)]

/-- The FIFO words `ws` as they are read. -/
def fifoTrace (s : State) (ws : List Half) : List Event := ws.map fun w => .rd16 (s.nic.iobase + s.cfg.num.neData) w

/-- The ports of a probe in the order they are read: `passes` times upward and then downward (42 R203). -/
def probeOrder (passes : Nat) (base : Half) (len : Nat) : List Half :=
  let up := (List.range len).map fun k => base + BitVec.ofNat 16 k
  (List.replicate passes (up ++ up.reverse)).flatten

/-- The reads of a probe that finds every port floating. -/
def cleanProbe (passes : Nat) (base : Half) (len : Nat) : List Event :=
  (probeOrder passes base len).map fun p => .rd8 p 0xFF

/-- The reads of a probe that stops at the first port that does not float. -/
def OccupiedProbe (passes : Nat) (base : Half) (len : Nat) (es : List Event) : Prop :=
  ∃ pre p post v, probeOrder passes base len = pre ++ p :: post ∧ v ≠ 0xFF ∧
    es = (pre.map fun p => .rd8 p 0xFF) ++ [.rd8 p v]

/-- The step between candidate bases of an I/O range (42 R202). -/
def alignment (d : IoRange) : Nat := if d.align = 0 then 1 else d.align.toNat

/-- Candidate base `n` of an I/O range, from `max(0x280, min_base)` rounded up to the alignment (42 R202). -/
def ioCandidate (d : IoRange) (n : Nat) : Nat :=
  ((max 0x280 d.minBase.toNat + alignment d - 1) / alignment d + n) * alignment d

/-- Whether a candidate base is tried (42 R202). -/
def IoTried (d : IoRange) (base : Nat) : Prop := base ≤ d.maxBase.toNat ∧ base + d.len.toNat ≤ 0x10000

/-- The parts of `CFG.DEVICE` that can fail, in order (42 R206). -/
def deviceParts (i j : Byte) (n : Nat) : List Instr :=
  (List.range n).map (fun k => .cfgIo i j (BitVec.ofNat 8 k)) ++ [.cfgIrq i j]

/-- The operations of `CFG.ALL` in table order (42 R207). -/
def eligible (s : State) : List Instr :=
  (List.range s.dev.length).flatMap fun i =>
    if (s.device i).crd.valid then
      ((List.range (s.device i).crd.lds.length).filter fun j => cfgMatch (s.ld i j)).map
        fun j => .cfgDevice (BitVec.ofNat 8 i) (BitVec.ofNat 8 j)
    else []

/-- A register offset that the receive pipeline uses (44). -/
def isRxOffset (m : Numbers) (off : Half) : Prop :=
  off ∈ [m.neCr, m.neBnry, m.neIsr, m.neRsar0, m.neRsar1, m.neRbcr0, m.neRbcr1, m.neCurr, m.neData]

/-- An access to such a register of the NIC at `iobase`, or a request to the heap. -/
def nicEvent (m : Numbers) (iobase : Half) : Event → Prop
  | .rd8 p _ => ∃ off, isRxOffset m off ∧ p = iobase + off
  | .rd16 p _ => p = iobase + m.neData
  | .wr8 p _ => ∃ off, isRxOffset m off ∧ p = iobase + off
  | .alloc _ _ => True
  | .release _ => True
  | .registerHandler _ => False
  | .unmaskLine _ => False

/-- Whether a logical device is an NE2000 (42 R200). -/
def isNe2000 (l : LogicalDevice) : Prop :=
  l.id = ⟨⟨0x50, 0x4E, 0x50⟩, 0x80D6⟩ ∨ (⟨⟨0x50, 0x4E, 0x50⟩, 0x80D6⟩ : DevId) ∈ l.compat

/-- The logical devices of the cards with valid data, in table order (43 R231). -/
def validLds (s : State) : List LogicalDevice := (s.dev.filter fun d => d.crd.valid).flatMap fun d => d.crd.lds

/-- Whether the NIC driver binds to a logical device (43 R231). -/
def bindsTo (l : LogicalDevice) : Prop := l.active = true ∧ isNe2000 l ∧ l.io ≠ []

/-- The state after a record's body `bs` was read from a ready card (41 R172). -/
def AfterBody (p : Half) (bs : List Byte) (s t : State) : Prop :=
  PortsOnly (readyTrace s.cfg.num p bs)
    (setResult (.body bs) { s with dec := { s.dec with csum := s.dec.csum + byteSum bs } }) t

/-- What the header of a recognised record does when its card is ready: the body is read, the length is checked
against `lens` (any length when that is none), then the record operation runs (41 R184, R186). -/
def RecordRow (row op : Instr) (tag : Byte) (lens : Option (List Nat)) (p : Half) (bs : List Byte) (s : State) :
    Prop :=
  ∃ u, AfterBody p bs s u ∧
    if lens.all (fun l => decide (bs.length ∈ l)) then ∃ t, exec row s = .next t ∧ exec op u = .next t
    else if s.cfg.lenMismatchFatal then
      exec row s = .next (setResult (.failed (.lengthFatal tag (BitVec.ofNat 16 bs.length)))
        { u with log := u.log ++
          [.lengthMismatch tag (BitVec.ofNat 16 bs.length), .lengthFatal tag (BitVec.ofNat 16 bs.length)] })
    else ∃ t, exec row s = .next t ∧
      exec op { u with log := u.log ++ [.lengthMismatch tag (BitVec.ofNat 16 bs.length)] } = .next t

/-- The record operations of 41 section 2 that attach to the current logical device. -/
def isAttached : Instr → Bool
  | .recCompat _ | .recIrq _ | .recDma _ | .recIoport _ | .recMem _ | .recMem32 _ => true
  | _ => false

/-- The operations that add an entry to the device table, and the record headers that run one (40 R155, 41 R174, R175,
R178, R181, R182). -/
def addsEntry : Instr → Bool
  | .isoRound _ | .recLogdev _ | .recCompat _ | .recIoport _ | .recMem _ | .recMem32 _ | .tagLogdev _ | .tagCompat _
  | .tagIoport _ | .tagMem _ | .tagMem32 _ => true
  | _ => false

/-- What needs the key before it: the operations of spec 40, 41 and 42 that touch a PnP port, and the record headers
and card-register accesses (70 R324; log 14, 16, 17). -/
def needsKey : Instr → Bool
  | .pnpAddr _ | .pnpWr _ _ | .pnpRd _ | .pnpWake _ | .pnpSetrdp _ | .pnpIsosel | .pnpSetcsn _ | .idSample | .idRead
  | .idDecode | .isoRound _ | .isoEnum | .rdByte | .rdHeader | .rdBody _ | .recVersion _ | .recLogdev _ | .recCompat _
  | .recIrq _ | .recDma _ | .recIoport _ | .recAnsi _ | .recEnd _ | .recMem _ | .recMem32 _ | .recUnknown _ _
  | .rdDecode _ | .cfgSelect _ _ | .cfgIo _ _ _ | .cfgIrq _ _ | .cfgActivate _ _ | .cfgDevice _ _ | .cfgAll
  | .tagVersion _ | .tagLogdev _ | .tagCompat _ | .tagIrq _ | .tagDma _ | .tagIoport _ | .tagEnd _ | .smallUnknown0 _
  | .smallUnknown6 _ | .smallUnknown7 _ | .smallUnknown9 _ | .smallUnknownA _ | .smallUnknownB _ | .smallUnknownC _
  | .smallUnknownD _ | .smallUnknownE _ | .tagMem _ | .tagAnsi _ | .tagMem32 _ | .largeUnknown _ _
  | .pnpRegSetRdData _ | .pnpRegSerialIsolation | .pnpRegConfigControl _ | .pnpRegWake _ | .pnpRegResourceData
  | .pnpRegStatus | .pnpRegCsn _ | .pnpRegLogicalDevice _ | .pnpRegActivate _ | .pnpRegIoRangeCheck _
  | .pnpRegIoBaseHi _ _ | .pnpRegIoBaseLo _ _ | .pnpRegIrqLevel _ | .pnpRegIrqType _ => true
  | _ => false

/-- The operations of the interrupt context (spec 44). -/
def isReceive : Instr → Bool
  | .rxIrq | .rxPending | .rxHdr | .rxRunt | .rxAlloc | .rxAddr | .rxClassify | .rxPayload | .rxDrop | .rxAdvance
  | .rxFrame | .rxAck => true
  | _ => false

/-- The NIC initialisation steps after `NE.BIND` (43 section 2). -/
def isInitStep : Instr → Bool
  | .neReset | .neBasicinit | .neProm | .neMac | .neRing | .neStart | .neIrqen | .neHook | .neLbclr => true
  | _ => false

/-- The register accessors of the NIC and its command bytes, legal in both contexts (43 section 1). -/
def isAccessor : Instr → Bool
  | .nePage _ | .neCmd _ | .neBnryWr _ | .neBnryRd | .neCurrWr _ | .neCurrRd | .neRsar _ | .neRbcr _ | .neRdmaRead _ _
  | .neFifoRd16 | .neFifoRd8 | .neDmaStop | .neRegWr _ _ | .neRegRd _ | .cmdStop _ | .cmdStart _ | .cmdRread _ => true
  | _ => false

/-- The operations of the main context alone (specs 40, 41, 42, the sequence of 43 section 2, and `Q.WAIT`), but for
the pure `LFSR.SHIFT`. -/
def isMainOnly : Instr → Bool
  | .keySend | .pnpEngine | .cfgMatch _ _ | .cfgProbe _ _ | .neBind | .neInit | .qWait => true
  | i => needsKey i || isInitStep i

/-! ## Where an operation may run -/

/-- No handler run can start here: no handler, the line masked, `IF = 0`, or a run is on (60 R301). In the engine's own
sequence this is so of every operation before `NE.HOOK`. An operation that a run can split is `Interrupts`'. -/
def Quiet (s : State) : Prop := s.deliverable = false

/-- The main context runs undisturbed and the key was sent (60 R301, R308, 70 R324). -/
def PnpReady (s : State) : Prop := s.ctl.inIrq = false ∧ s.iso.keySent = true ∧ Quiet s

/-- And the read port is `p` (10 R23). -/
def PortReady (p : Half) (s : State) : Prop := PnpReady s ∧ s.wr.rdp = true ∧ s.iso.rdp = p

/-- And the running sum was started (41 R170). -/
def StreamReady (p : Half) (s : State) : Prop := PortReady p s ∧ s.wr.csum = true

/-- The stream of `DEV[d]` is being decoded (41 R184; log 19). -/
def DecodingAt (d : Nat) (s : State) : Prop :=
  PnpReady s ∧ s.dec.card = some d ∧ d < s.dev.length ∧ s.wr.curld = true

/-- `CURLD` names no logical device beyond `ldcount`. -/
def CurldInUse (d : Nat) (s : State) : Prop := ∀ j : Fin 4, s.dec.curld = .index j → j < (s.device d).crd.lds.length

/-- `DEV[i].crd.ld[j]` is in use (log 18). -/
def LdThere (s : State) (i j : Nat) : Prop := i < s.dev.length ∧ j < (s.device i).crd.lds.length

/-- The main context runs undisturbed and the driver is bound (43 section 2, 60 R301). -/
def InitReady (s : State) : Prop := s.ctl.inIrq = false ∧ s.nic.bound = true ∧ Quiet s

/-- The driver is bound and nothing splits an accessor (43 section 1, 60 R301). -/
def AccessReady (s : State) : Prop := s.nic.bound = true ∧ Quiet s

/-- The handler runs (44, the lines before R260; log 34). -/
def RxReady (s : State) : Prop :=
  s.ctl.inIrq = true ∧ s.nic.bound = true ∧ (s.phase.handlerLive = true ∨ s.fl.handlerSet = true)

/-- The main context runs and a handler run may start at its next boundary (60 R301). -/
def Open (s : State) : Prop :=
  s.ctl.inIrq = false ∧ s.fl.handlerSet = true ∧ s.fl.lineMasked = false ∧ s.fl.ifl = true ∧ s.bus.countdown = none

/-- The requests to `allocate` in a run of accesses, with their answers (20 R75). -/
def allocations (es : List Event) : List (Nat × Option Nat) :=
  es.filterMap fun e =>
    match e with
    | .alloc size answer => some (size, answer)
    | _ => none

/-- From `s`, `t` is a handler run just begun that has split step `task` after parts that read `got`, latest first
(60 R302). -/
def SplitAt (task : Task) (got : List Val) (s t : State) : Prop :=
  t.ctl = ⟨true, { t.ctl.main with todo := .resume task got :: s.ctl.main.todo }, ⟨[.op .rxIrq], .unit⟩⟩ ∧
    t.fl.lineMasked = true ∧ t.fl.halted = false

/-! ## Programs -/

/-- Operations one after another; stops at the first that does not go on. -/
def runInstrs : List Instr → State → Answer
  | [], s => .next s
  | i :: is, s =>
    match exec i s with
    | .next t => runInstrs is t
    | .fault f => .fault f
    | .refused r => .refused r

/-- The operations a queue program may hold. -/
inductive QueueOp where
  | enq (f : Frame)
  | deq
  | size
  deriving DecidableEq, Repr

def QueueOp.instr : QueueOp → Instr
  | .enq f => .qEnq f
  | .deq => .qDeq
  | .size => .qSize

/-- The frames a queue program enqueues. -/
def enqueued : List QueueOp → List Frame
  | [] => []
  | .enq f :: os => f :: enqueued os
  | _ :: os => enqueued os

/-! ## Invariants -/

/-- A logical device within its capacities (10 R33, R36). -/
def LdInv (l : LogicalDevice) : Prop :=
  l.compat.length ≤ 10 ∧ l.io.length ≤ 8 ∧ l.mem.length ≤ 4 ∧ l.dep = []

/-- Entry `i` of the device table: its CSN is `i + 1` and its card has at most four logical devices (10 R31, R32,
30 R107). -/
def DeviceInv (i : Nat) (d : Device) : Prop :=
  d.csn.toNat = i + 1 ∧ d.crd.lds.length ≤ 4 ∧ ∀ l ∈ d.crd.lds, LdInv l

/-- The device table within its capacities (00 R8, 10 R24, R31 to R33), and an entry that is being filled within those
of the entry it becomes (log 48). -/
def TableInv (s : State) : Prop :=
  s.dev.length ≤ 10 ∧ (∀ i d, s.dev[i]? = some d → DeviceInv i d) ∧
    (∀ d, s.fresh = some (.device d) → DeviceInv s.dev.length d) ∧ ∀ l, s.fresh = some (.ld l) → LdInv l

/-- The two contexts and the line: a handler run has its line masked, never nests, finds the main context not halted,
and no line is unmasked before a handler is registered (60 R302, R304, R306). -/
def ContextInv (s : State) : Prop :=
  (s.ctl.inIrq = true → s.fl.lineMasked = true ∧ s.fl.halted = false ∧ s.fl.handlerSet = true) ∧
    (s.fl.lineMasked = false → s.fl.handlerSet = true)

/-- Registers with a stated range: `RDP` a candidate, `BITCNT` at most 72, 32 `PROM` bytes, a bound context has its
queue handle (10 R22, R23, R28). -/
def RegisterInv (s : State) : Prop :=
  (s.wr.rdp = true → isCandidate s.iso.rdp = true) ∧ s.iso.bitcnt.toNat ≤ 72 ∧ s.nic.prom.length = 32 ∧
    (s.nic.bound = true → s.nic.qh = .queueQ)

/-- The rest of a split step is one that a handler run can leave: a handler is registered, a read port still to be kept
is a candidate, and a binding that has written `QH` has it (60 R301, 10 R23, R28; log 10). -/
def SplitInv (s : State) : Prop :=
  ∀ t got, Task.resume t got ∈ s.ctl.main.todo →
    s.fl.handlerSet = true ∧ (∀ p, t = .op (.pnpSetrdp p) → isCandidate p = true) ∧
      (∀ v, t = .op (.pnpRegSetRdData v) → isCandidate (rdpOfByte v) = true) ∧
      ((t = .op .neBind ∨ t = .op .neInit) → 4 ≤ got.length → s.nic.qh = .queueQ)

/-- Live handles are distinct and older than the next fresh one (20 R75). -/
def HeapInv (s : State) : Prop :=
  (∀ p ∈ s.heap.live, p.1 < s.heap.next) ∧ (s.heap.live.map Prod.fst).Nodup

/-- Every invariant of the engine. -/
def EngineInv (s : State) : Prop := TableInv s ∧ ContextInv s ∧ RegisterInv s ∧ SplitInv s ∧ HeapInv s

/-- Every byte memory of the environment is in canonical form. -/
def MemoryInv (s : State) : Prop :=
  ∀ g, s.bus.agents = some g →
    (∀ n ∈ g.nics, Memory.wf n.mem = true) ∧ ∀ c ∈ g.cards, Memory.wf c.regs = true

/-- A state that `k` steps do not stop. -/
def SafeFor (k : Nat) (s : State) : Prop := ∃ t, Host.Core.run core k s = .next t

end Sys2Proof
end

