-- ==== Sys2Proof/WellFormed.lean ====
section
/-! DEFINITION. Which instructions the spec forms at all: candidates, CSNs, table indexes, register offsets, and
the lengths the encoding can carry. -/

namespace Sys2Proof

/-- A byte string whose length fits the 16-bit count of its encoding (log 1). -/
def bodyFits (body : List Byte) : Bool := decide (body.length < 65536)

/-- A program line whose length fits its encoding (log 1). -/
def Line.fits (l : Line) : Bool := bodyFits l.bytes

/-- A frame operand: its length is its payload's (10 R37) and its handles fit the encoding (log 1, 23). -/
def Frame.wellFormed (f : Frame) : Bool :=
  decide (f.payload.length = f.length.toNat) && decide (f.record < 65536) && decide (f.buffer < 65536)

/-- Device, logical device and I/O range indexes within the capacities of 00 R8. -/
def devIndexOk (i : Byte) : Bool := decide (i.toNat < Config.devCap)
def ldIndexOk (j : Byte) : Bool := decide (j.toNat < Config.ldCap)
def ioIndexOk (k : Byte) : Bool := decide (k.toNat < Config.ioCap)

/-- The operand is one the spec forms; each check names its rule. Tags are the opcode table's (log 9). -/
def Instr.wellFormed : Instr → Bool
  | .pnpSetrdp p => Machine.isCandidate p                                  -- 40 R146
  | .pnpSetcsn n => decide (1 ≤ n.toNat) && decide (n.toNat ≤ Config.devCap) -- 40 R148, 30 R107
  | .recVersion b => bodyFits b
  | .recLogdev b => bodyFits b
  | .recCompat b => bodyFits b
  | .recIrq b => bodyFits b
  | .recDma b => bodyFits b
  | .recIoport b => bodyFits b
  | .recAnsi b => bodyFits b
  | .recEnd b => bodyFits b
  | .recMem b => bodyFits b
  | .recMem32 b => bodyFits b
  | .rdDecode i => devIndexOk i                                            -- 10 R31
  | .cfgMatch i j => devIndexOk i && ldIndexOk j                            -- 10 R32
  | .cfgSelect i j => devIndexOk i && ldIndexOk j
  | .cfgIo i j k => devIndexOk i && ldIndexOk j && ioIndexOk k              -- 10 R33
  | .cfgIrq i j => devIndexOk i && ldIndexOk j
  | .cfgActivate i j => devIndexOk i && ldIndexOk j
  | .cfgDevice i j => devIndexOk i && ldIndexOk j
  | .nePage p => decide (p < 65536)                                        -- log 1
  | .neRdmaRead _ count => decide (count ≠ 0)                              -- 43 R226, 93 U10
  | .neRegWr reg _ => decide (reg.toNat ≤ 0x1F)                            -- 20 R70
  | .neRegRd reg => decide (reg.toNat ≤ 0x1F)
  | .qGuard body => decide (body.length < 65536) && body.all Line.fits
  | .qEnq f => f.wellFormed
  | .largeUnknown tag _ =>                                                 -- 30 R121
      Machine.isLarge tag && decide (tag ≠ Numbers.default.tagMem) && decide (tag ≠ Numbers.default.tagAnsi) &&
        decide (tag ≠ Numbers.default.tagMem32)
  | .sampleNocard v => decide (v ≠ Config.sampleOne) && decide (v ≠ Config.sampleZero) -- 30 R101
  | .pnpRegSetRdData v => Machine.isCandidate (Machine.rdpOfByte v)         -- 30 R106
  | .pnpRegCsn v => decide (1 ≤ v.toNat) && decide (v.toNat ≤ Config.devCap) -- 30 R107
  | .cmdStop ps => decide (ps ≠ 3)                                         -- 30 R129 (4)
  | .cmdStart ps => decide (ps ≠ 3)
  | .cmdRread ps => decide (ps ≠ 3)
  | .lfsrShift _ _ => true
  | .keySend => true
  | .pnpAddr _ => true
  | .pnpWr _ _ => true
  | .pnpRd _ => true
  | .pnpWake _ => true
  | .pnpIsosel => true
  | .idSample => true
  | .idRead => true
  | .idDecode => true
  | .isoRound _ => true
  | .isoEnum => true
  | .pnpEngine => true
  | .rdByte => true
  | .rdHeader => true
  | .rdBody _ => true
  | .recUnknown _ _ => true
  | .cfgProbe _ _ => true
  | .cfgAll => true
  | .neCmd _ => true
  | .neBnryWr _ => true
  | .neCurrWr _ => true
  | .neRsar _ => true
  | .neRbcr _ => true
  | .neFifoRd16 => true
  | .neDmaStop => true
  | .neBnryRd => true
  | .neCurrRd => true
  | .neFifoRd8 => true
  | .neBind => true
  | .neReset => true
  | .neBasicinit => true
  | .neProm => true
  | .neMac => true
  | .neRing => true
  | .neStart => true
  | .neIrqen => true
  | .neHook => true
  | .neLbclr => true
  | .neInit => true
  | .rxIrq => true
  | .rxPending => true
  | .rxHdr => true
  | .rxRunt => true
  | .rxAlloc => true
  | .rxAddr => true
  | .rxClassify => true
  | .rxPayload => true
  | .rxDrop => true
  | .rxAdvance => true
  | .rxFrame => true
  | .rxAck => true
  | .qDeq => true
  | .qSize => true
  | .qWait => true
  | .tagVersion _ => true
  | .tagLogdev _ => true
  | .tagCompat _ => true
  | .tagIrq _ => true
  | .tagDma _ => true
  | .tagIoport _ => true
  | .tagEnd _ => true
  | .smallUnknown0 _ => true
  | .smallUnknown6 _ => true
  | .smallUnknown7 _ => true
  | .smallUnknown9 _ => true
  | .smallUnknownA _ => true
  | .smallUnknownB _ => true
  | .smallUnknownC _ => true
  | .smallUnknownD _ => true
  | .smallUnknownE _ => true
  | .tagMem _ => true
  | .tagAnsi _ => true
  | .tagMem32 _ => true
  | .sampleOne => true
  | .sampleZero => true
  | .pnpRegSerialIsolation => true
  | .pnpRegConfigControl _ => true
  | .pnpRegWake _ => true
  | .pnpRegResourceData => true
  | .pnpRegStatus => true
  | .pnpRegLogicalDevice _ => true
  | .pnpRegActivate _ => true
  | .pnpRegIoRangeCheck _ => true
  | .pnpRegIoBaseHi _ _ => true
  | .pnpRegIoBaseLo _ _ => true
  | .pnpRegIrqLevel _ => true
  | .pnpRegIrqType _ => true

end Sys2Proof
end

