-- ==== Sys2Proof/Certificates/Slice0/Obligations.lean ====
section
/-! DEFINITION. What the provers prove. Each statement says in its docstring which rules of the spec it formalises, and
names the log entries behind whatever part is the model's choice. -/

section

open Sys2Proof Sys2Proof.Machine

/-! ### Encodings -/

/-- One word of each format, written out from the spec's layout, decodes to the instruction it stands for (30 R101,
R105, R108, R109, R124, R132): a tag word by the tag numbers of 30 R110, a card-register word by the register numbers
of 10 R40 and the pairs of 30 R122, all at their defaults (log 9). The operand layout of an operation is the model's
(log 1). Inferences these rules mark as the spec's own: decisions D3, D14, D15, D19, D37; general knowledge in R105,
R124, R110, R40. -/
def Obligations.SpecWordsDecode : Prop :=
  decode .op [0b00001111] = .ok (.pnpEngine, []) ∧
  decode .op [0b00000111, 0b00000011, 0b00000010] = .ok (.pnpSetrdp 0x203, []) ∧
  decode .resource [0b0_1000_111] = .ok (.tagIoport 7, []) ∧
  decode .resource [0b0_1111_001] = .ok (.tagEnd 1, []) ∧
  decode .resource [0b1_0000010, 0b00000011, 0b00000000] = .ok (.tagAnsi 3, []) ∧
  decode .sample [0b01010101, 0b10101010] = .ok (.sampleOne, []) ∧
  decode .sample [0b11111111, 0b11111111] = .ok (.sampleZero, []) ∧
  decode .pnp [0b01100110, 0b00000010] = .ok (.pnpRegIoBaseHi 3 0x02, []) ∧
  decode .pnp [0b00000011, 0b00000000] = .ok (.pnpRegWake 0, []) ∧
  decode .ne [0b01_100001] = .ok (.cmdStop 1, [])

/-- The bytes of every well-formed instruction decode to it, and nothing after them is read. The byte layout of
operands is the model's (log 1). Inferences these rules mark as the spec's own: decisions D19, D37; general knowledge
in R124. -/
def Obligations.DecodeOfEncode : Prop :=
  ∀ (i : Instr) (rest : List Byte), i.wellFormed = true → decode i.format (encode i ++ rest) = .ok (i, rest)

/-- Which record a header selects: the tag map at its default numbers, and every other tag unrecognised (30 R108 to
R110, R121). That a header byte is an instruction of its own is the model's reading (log 14). Inferences these rules
mark as the spec's own: decisions D12, D15; general knowledge in R110, R121. -/
def Obligations.HeaderSelectsRecord : Prop :=
  (∀ (m : Numbers) (h : Byte) (rest : List Byte), h.getLsbD 7 = false →
    decodeAt m .resource (h :: rest) = .ok (recordInstr m .small (h.extractLsb' 3 4 |>.setWidth 8)
      (h.extractLsb' 0 3 |>.setWidth 16), rest)) ∧
  (∀ (m : Numbers) (h l0 l1 : Byte) (rest : List Byte), h.getLsbD 7 = true →
    decodeAt m .resource (h :: l0 :: l1 :: rest) = .ok (recordInstr m .large h (l1 ++ l0), rest)) ∧
  (∀ len : Half, recordInstr .default .small 0x1 len = .tagVersion (len.setWidth 3) ∧
    recordInstr .default .small 0x2 len = .tagLogdev (len.setWidth 3) ∧
    recordInstr .default .small 0x3 len = .tagCompat (len.setWidth 3) ∧
    recordInstr .default .small 0x4 len = .tagIrq (len.setWidth 3) ∧
    recordInstr .default .small 0x5 len = .tagDma (len.setWidth 3) ∧
    recordInstr .default .small 0x8 len = .tagIoport (len.setWidth 3) ∧
    recordInstr .default .small 0xF len = .tagEnd (len.setWidth 3) ∧
    recordInstr .default .small 0x0 len = .smallUnknown0 (len.setWidth 3) ∧
    recordInstr .default .small 0x6 len = .smallUnknown6 (len.setWidth 3) ∧
    recordInstr .default .small 0x7 len = .smallUnknown7 (len.setWidth 3) ∧
    recordInstr .default .small 0x9 len = .smallUnknown9 (len.setWidth 3) ∧
    recordInstr .default .small 0xA len = .smallUnknownA (len.setWidth 3) ∧
    recordInstr .default .small 0xB len = .smallUnknownB (len.setWidth 3) ∧
    recordInstr .default .small 0xC len = .smallUnknownC (len.setWidth 3) ∧
    recordInstr .default .small 0xD len = .smallUnknownD (len.setWidth 3) ∧
    recordInstr .default .small 0xE len = .smallUnknownE (len.setWidth 3) ∧
    recordInstr .default .large 0x81 len = .tagMem len ∧
    recordInstr .default .large 0x82 len = .tagAnsi len ∧
    recordInstr .default .large 0x85 len = .tagMem32 len) ∧
  (∀ tag len, tag ≠ 0x81 → tag ≠ 0x82 → tag ≠ 0x85 → recordInstr .default .large tag len = .largeUnknown tag len)

/-! ### The step -/

/-- A step of a context whose next step is a program line runs the instruction the line decodes to, with that line
taken off, and a boundary follows; the host's word, which is numbered as the defaults are and whose format is the
model's choice (log 2), is placed as the very next line. Program lines are the model's way to place an instruction
(log 3). Inferences these rules mark as the spec's own: decisions D37. -/
def Obligations.StepRunsDecoded : Prop :=
  (∀ (s : State) (l : Line) (ts : List Task) (i : Instr) (r : List Byte),
    s.cfg.ok = true → (s.ctl.inIrq = true ∨ s.fl.halted = false) → s.active.todo = .line l :: ts →
    decodeAt s.cfg.num l.fmt l.bytes = .ok (i, r) →
    step s = afterStep (exec i (setTodo ts s))) ∧
  (∀ (s : State) (nbits w : Nat) (i : Instr), s.cfg.ok = true → s.cfg.num = .default →
    decodeTableWord nbits w = some i →
    step (s.withFetchWord nbits w) = afterStep (exec i (if s.ctl.inIrq then s else setHalted false s)))

/-- What the main context does when it has nothing placed before it: discovery from `PowerOn`, the NIC from
`Configured`, the consumer loop from `Running` and from `NoNic` (70 R323). Parameters outside their constraints are
refused, as 93 U21 says; that fewer than 2 probe passes and a `CFG_STEP` above 2 are outside, and that the refusal
comes before anything else, is the model's reading (log 27). The resumption from the other phases is the model's (log
28). -/
def Obligations.SequenceFollowsPhase : Prop :=
  (∀ s : State, s.cfg.ok = true → s.ctl.inIrq = false → s.fl.halted = false → s.ctl.main.todo = [] →
    (s.phase = .powerOn → step s = afterStep (exec .pnpEngine s)) ∧
    (s.phase = .configured → step s = afterStep (exec .neInit s)) ∧
    ((s.phase = .running ∨ s.phase = .noNic) → step s = afterStep (exec .qWait s))) ∧
  (∀ s : State, s.cfg.ok = false → step s = .refused .badParameters)

/-- What reset leaves, as far as the spec gives it (10 R51, 70 R321), and every parameter of 00 R9 that has a default
at it; `IRQ_VECTOR` and `FRAME_REC_SIZE` have none. `FR = NONE` is the model's reset value (log 6); the other values
the model chose (log 6, 7) are no part of this. Inferences these rules mark as the spec's own: decisions D2, D10, D11,
D12, D13, D14, D15, D16, D19, D20, D21, D22, D34; general knowledge in R9, R40, R110. -/
def Obligations.ResetState : Prop :=
  State.reset.dev = [] ∧ State.reset.iso.keySent = false ∧ State.reset.isWritten .rdp = false ∧
  State.reset.nic.bound = false ∧ State.reset.nic.page = none ∧ State.reset.phase = .powerOn ∧
  State.reset.fl.handlerSet = false ∧ State.reset.fl.halted = false ∧ State.reset.fl.lineMasked = true ∧
  State.reset.q = [] ∧ State.reset.log = [] ∧ State.reset.rx.fr = none ∧
  (∀ r, State.reset.isWritten r = false) ∧
  let c := State.reset.cfg
  [c.keyPreamble, c.probePasses] = [2, 2] ∧ c.memRecords = .reject ∧ c.lenMismatchFatal = false ∧ c.ansiMax = none ∧
  [c.cfgStep, c.ringStart, c.ringStop, c.dcrInit, c.dcrRun, c.rcrInit, c.tcrInit, c.tcrRun, c.imrInit] =
    [2, 0x40, 0x80, 0x41, 0x49, 0x04, 0x02, 0x00, 0x01] ∧
  let m := c.num
  [m.setRdData, m.serialIsolation, m.configControl, m.wake, m.resourceData, m.status, m.csn, m.logicalDevice,
    m.activate, m.ioRangeCheck] = [0x00, 0x01, 0x02, 0x03, 0x04, 0x05, 0x06, 0x07, 0x30, 0x31] ∧
  [m.tagVersion, m.tagLogdev, m.tagCompat, m.tagIrq, m.tagDma, m.tagIoport, m.tagEnd, m.tagMem, m.tagAnsi,
    m.tagMem32] = [0x1, 0x2, 0x3, 0x4, 0x5, 0x8, 0xF, 0x81, 0x82, 0x85] ∧
  [m.neCr, m.nePstart, m.nePstop, m.neBnry, m.neTpsr, m.neTbcr0, m.neTbcr1, m.neIsr, m.neRsar0, m.neRsar1, m.neRbcr0,
    m.neRbcr1, m.neRcr, m.neTcr, m.neDcr, m.neImr] =
      [0x0, 0x1, 0x2, 0x3, 0x4, 0x5, 0x6, 0x7, 0x8, 0x9, 0xA, 0xB, 0xC, 0xD, 0xE, 0xF] ∧
  [m.nePar0, m.neCurr, m.neMar0, m.neData, m.neReset] = [0x01, 0x07, 0x08, 0x10, 0x1F] ∧
  [m.cmdStop, m.cmdStart, m.cmdRread, m.cmdNodma] = [0x21, 0x22, 0x0A, 0x22] ∧
  [m.crStp, m.crSta, m.crRd, m.crPs, m.isrPrx, m.isrRdc, m.isrRst] = [0, 1, 3, 6, 0, 6, 7]

/-! ### Isolation -/

/-- `LFSR.SHIFT` computes its value from its operands and changes nothing but the result (40 R140). That it runs in
both contexts is the model's (log 24). Inferences these rules mark as the spec's own: derivations in R140. -/
def Obligations.LfsrShift : Prop :=
  (∀ (r : Byte) (b : Bool) (s : State), ∃ r' : Byte,
    exec (.lfsrShift r b) s = .next (setResult (.byte r') s) ∧
    r'.getLsbD 7 = (b ^^ r.getLsbD 0 ^^ r.getLsbD 1) ∧ ∀ k < 7, r'.getLsbD k = r.getLsbD (k + 1)) ∧
  (List.range 63).foldl (fun r _ => lfsrShift r false) 0x6A = 0x6A

/-- `KEY.SEND`: the preamble, the literal 32 bytes, each the shift of the one before from the seed, `LFSR` left at
0x9C and `KEY_SENT` set; no other register changes (40 R141, 30 R102). Inferences these rules mark as the spec's own:
decisions D1, D2; general knowledge in R141; derivations in R102. -/
def Obligations.KeySend : Prop :=
  ∀ s : State, s.ctl.inIrq = false → Quiet s →
    ∃ t, PortsOnly (List.replicate s.cfg.keyPreamble (.wr8 0x279 0x00) ++
        [0x6A, 0xB5, 0xDA, 0xED, 0xF6, 0xFB, 0x7D, 0xBE, 0xDF, 0x6F, 0x37, 0x1B, 0x0D, 0x86, 0xC3, 0x61,
          0xB0, 0x58, 0x2C, 0x16, 0x8B, 0x45, 0xA2, 0xD1, 0xE8, 0x74, 0x3A, 0x9D, 0xCE, 0xE7, 0x73, 0x39].map
          (Event.wr8 0x279)) s t ∧
      exec .keySend s = .next { t with iso := { t.iso with lfsr := 0x9C, keySent := true } }

/-- The card-register accesses make exactly their port accesses and change nothing else: `PNP.ADDR`, `PNP.WR`,
`PNP.RD`, `PNP.WAKE`, `PNP.ISOSEL`, `PNP.SETCSN`. `PNP.WR` is made whatever register and value it names, and leaves
`RDP` alone (log 41), but a CSN outside 1..10 for the CSN register is refused, as it is of `PNP.SETCSN` (93 U2; 40
R142 to R148, 30 R105, R107). Inferences these rules mark as the spec's own: decisions D6, D14; general knowledge in
R147, R105, R145. -/
def Obligations.CardAccess : Prop :=
  (∀ s : State, PnpReady s →
    (∀ reg, ∃ t, PortsOnly [.wr8 0x279 reg] s t ∧ exec (.pnpAddr reg) s = .next t) ∧
    (∀ reg v : Byte, (reg = s.cfg.num.csn → 1 ≤ v.toNat ∧ v.toNat ≤ 10) →
      ∃ t, PortsOnly [.wr8 0x279 reg, .wr8 0xA79 v] s t ∧ exec (.pnpWr reg v) s = .next t) ∧
    (∀ v : Byte, (v = 0 ∨ 10 < v.toNat) → exec (.pnpWr s.cfg.num.csn v) s = .refused .badCsn) ∧
    (∀ csn, ∃ t, PortsOnly (cfgPair s.cfg.num.wake csn) s t ∧ exec (.pnpWake csn) s = .next t) ∧
    (∃ t, PortsOnly [.wr8 0x279 s.cfg.num.serialIsolation] s t ∧ exec .pnpIsosel s = .next t) ∧
    (∀ n : Byte, 1 ≤ n.toNat → n.toNat ≤ 10 →
      ∃ t, PortsOnly (cfgPair s.cfg.num.csn n) s t ∧ exec (.pnpSetcsn n) s = .next t) ∧
    (∀ n : Byte, (n = 0 ∨ 10 < n.toNat) → exec (.pnpSetcsn n) s = .refused .badCsn)) ∧
  (∀ (p : Half) (s : State) (reg : Byte), PortReady p s →
    ∃ v t, PortsOnly [.wr8 0x279 reg, .rd8 p v] s t ∧ exec (.pnpRd reg) s = .next (setResult (.byte v) t) ∧
      ∀ a rest, s.bus.answers = a :: rest → v = a.setWidth 8 ∧ t.bus.answers = rest)

/-- `PNP.SETRDP` on candidate `k` writes 0x80 + k and keeps the address; any other address is refused (40 R146, 30
R106). Inferences these rules mark as the spec's own: decisions D14; general knowledge in R106. -/
def Obligations.SetReadPort : Prop :=
  ∀ s : State, PnpReady s →
    (∀ k < 128, ∃ t, PortsOnly (cfgPair s.cfg.num.setRdData (BitVec.ofNat 8 (0x80 + k))) s t ∧
      exec (.pnpSetrdp (BitVec.ofNat 16 (0x203 + 4 * k))) s =
        .next { t with
          iso := { t.iso with rdp := BitVec.ofNat 16 (0x203 + 4 * k) }
          wr := { t.wr with rdp := true } }) ∧
    (∀ p : Half, (∀ k < 128, p.toNat ≠ 0x203 + 4 * k) → exec (.pnpSetrdp p) s = .refused .notCandidate)

/-- The card-register rows and the sample rows, each as one access or one sample (30 R101, R105 to R107, R122, R123).
That these rows act this way is the model's reading (log 14, 16), and so is that a sample row runs in either context
(log 24). Inferences these rules mark as the spec's own: decisions D3, D6, D14, D18; general knowledge in R105, R106,
R123. -/
def Obligations.RegisterAndSampleRows : Prop :=
  (∀ s : State, PnpReady s → ∀ v : Byte,
    (∀ k < 128, ∃ t, PortsOnly (cfgPair s.cfg.num.setRdData (BitVec.ofNat 8 (0x80 + k))) s t ∧
      exec (.pnpRegSetRdData (BitVec.ofNat 8 (0x80 + k))) s =
        .next { t with
          iso := { t.iso with rdp := BitVec.ofNat 16 (0x203 + 4 * k) }
          wr := { t.wr with rdp := true } }) ∧
    (v.toNat < 0x80 → exec (.pnpRegSetRdData v) s = .refused .notCandidate) ∧
    (∃ t, PortsOnly (cfgPair s.cfg.num.configControl v) s t ∧
      exec (.pnpRegConfigControl v) s = .next t) ∧
    (∃ t, PortsOnly (cfgPair s.cfg.num.wake v) s t ∧ exec (.pnpRegWake v) s = .next t) ∧
    (1 ≤ v.toNat → v.toNat ≤ 10 →
      ∃ t, PortsOnly (cfgPair s.cfg.num.csn v) s t ∧ exec (.pnpRegCsn v) s = .next t) ∧
    ((v = 0 ∨ 10 < v.toNat) → exec (.pnpRegCsn v) s = .refused .badCsn) ∧
    (∃ t, PortsOnly (cfgPair s.cfg.num.logicalDevice v) s t ∧
      exec (.pnpRegLogicalDevice v) s = .next t) ∧
    (∃ t, PortsOnly (cfgPair s.cfg.num.activate v) s t ∧
      exec (.pnpRegActivate v) s = .next t) ∧
    (∃ t, PortsOnly (cfgPair s.cfg.num.ioRangeCheck v) s t ∧
      exec (.pnpRegIoRangeCheck v) s = .next t) ∧
    (∀ k : BitVec 3, ∃ t, PortsOnly (cfgPair (BitVec.ofNat 8 (0x60 + 2 * k.toNat)) v) s t ∧
      exec (.pnpRegIoBaseHi k v) s = .next t) ∧
    (∀ k : BitVec 3, ∃ t, PortsOnly (cfgPair (BitVec.ofNat 8 (0x61 + 2 * k.toNat)) v) s t ∧
      exec (.pnpRegIoBaseLo k v) s = .next t) ∧
    (∃ t, PortsOnly (cfgPair 0x70 v) s t ∧ exec (.pnpRegIrqLevel v) s = .next t) ∧
    (∃ t, PortsOnly (cfgPair 0x71 v) s t ∧ exec (.pnpRegIrqType v) s = .next t)) ∧
  (∀ (p : Half) (s : State), PortReady p s →
    (∃ v t, PortsOnly (cfgGet p s.cfg.num.serialIsolation v) s t ∧
      exec .pnpRegSerialIsolation s = .next (setResult (.byte v) t)) ∧
    (∃ v t, PortsOnly (cfgGet p s.cfg.num.resourceData v) s t ∧
      exec .pnpRegResourceData s = .next (setResult (.byte v) t)) ∧
    (∃ v t, PortsOnly (cfgGet p s.cfg.num.status v) s t ∧
      exec .pnpRegStatus s = .next (setResult (.byte v) t))) ∧
  (∀ s : State, exec .sampleOne s = .next (setResult (.bit true) s) ∧
    exec .sampleZero s = .next (setResult (.bit false) s) ∧
    ∀ v : Half, v ≠ 0xAA55 → v ≠ 0xFFFF →
      exec (.sampleNocard v) s = .next (setResult (.failed (.noCard v)) s))

/-- `ID.SAMPLE`: two reads of the read port, low byte first; 0xAA55 is 1, 0xFFFF is 0, any other value is `NoCard`,
which is not logged (40 R149, 30 R101). That `PNP.ISOSEL` came last is not asked (log 42). Inferences these rules mark
as the spec's own: decisions D3. -/
def Obligations.IdSample : Prop :=
  ∀ (p : Half) (s : State), PortReady p s →
    ∃ (a b : Byte) (t : State), PortsOnly [.rd8 p a, .rd8 p b] s t ∧
      (∀ x y rest, s.bus.answers = x :: y :: rest → a = x.setWidth 8 ∧ b = y.setWidth 8 ∧ t.bus.answers = rest) ∧
      exec .idSample s = .next
        (if b ++ a = 0xAA55#16 then setResult (.bit true) t
        else if b ++ a = 0xFFFF#16 then setResult (.bit false) t
        else setResult (.failed (.noCard (b ++ a))) t)

/-- `ID.READ`. On the samples of a whole identifier: 144 reads, `ID` is the identifier, `BITCNT` is 72, `LFSR` holds
the checksum of the first eight bytes, and the result is `ok` exactly when the ninth byte equals it. On `k` good
samples and a bad one: `2*(k+1)` reads, none after, `ID` holds those bits and zeros, `LFSR` the sum so far, and the
result is `NoCard`. Nothing is logged (40 R150, 60 R292). The samples and the bytes they fill are those of 30 R101 and
R103. That `PNP.ISOSEL` came last is not asked (log 42), and that a partial `ID` counts as written is the model's (log
43). Inferences these rules mark as the spec's own: decisions D3, D4, D5, D31; derivations in R150. -/
def Obligations.IdRead : Prop :=
  (∀ (p : Half) (x : BitVec 72) (rest : List Half) (s : State), PortReady p s →
    s.bus.answers = idAnswers x ++ rest →
    ∃ t, PortsOnly ((idAnswers x).map fun a => .rd8 p (a.setWidth 8)) s t ∧ t.bus.answers = rest ∧
      exec .idRead s = .next (setResult
        (if x.extractLsb' 64 8 = idChecksum x then .ok else .failed .idChecksum)
        { t with
          iso := { t.iso with id := x, bitcnt := 72, lfsr := idChecksum x }
          wr := { t.wr with id := true } })) ∧
  (∀ (p a b : Half) (bits : List Bool) (rest : List Half) (s : State), PortReady p s → bits.length < 72 →
    (b.setWidth 8 ++ a.setWidth 8 : Half) ≠ 0xAA55 → (b.setWidth 8 ++ a.setWidth 8 : Half) ≠ 0xFFFF →
    s.bus.answers = bits.flatMap sampleAnswers ++ a :: b :: rest →
    ∃ t, PortsOnly ((bits.flatMap sampleAnswers ++ [a, b]).map fun v => .rd8 p (v.setWidth 8)) s t ∧
      t.bus.answers = rest ∧
      exec .idRead s = .next (setResult (.failed (.noCard (b.setWidth 8 ++ a.setWidth 8)))
        { t with
          iso := { t.iso with
            id := (BitVec.ofBoolListLE bits).setWidth 72
            bitcnt := BitVec.ofNat 7 bits.length
            lfsr := (bits.take 64).foldl lfsrShift 0x6A }
          wr := { t.wr with id := true } }))

/-- `ID.READ` is a function of the bytes the read port returned: two reads that saw the same bytes leave the same
`ID`, `LFSR` and `BITCNT` and answer the same (40 R154). Inferences these rules mark as the spec's own: derivations in
R154. -/
def Obligations.IdReadDeterministic : Prop :=
  ∀ (p₁ p₂ : Half) (vs : List Byte) (s₁ s₂ t₁ t₂ : State),
    s₁.wr.rdp = true → s₁.iso.rdp = p₁ → s₂.wr.rdp = true → s₂.iso.rdp = p₂ → Quiet s₁ → Quiet s₂ →
    exec .idRead s₁ = .next t₁ → exec .idRead s₂ = .next t₂ →
    t₁.bus.trace = s₁.bus.trace ++ vs.map (Event.rd8 p₁) → t₂.bus.trace = s₂.bus.trace ++ vs.map (Event.rd8 p₂) →
    t₁.iso.id = t₂.iso.id ∧ t₁.iso.lfsr = t₂.iso.lfsr ∧ t₁.iso.bitcnt = t₂.iso.bitcnt ∧ t₁.result = t₂.result

/-- A bus on which nothing drives fails by checksum after all 144 reads, with `ID` zero and `LFSR` 0xB5; `NoCard`
arises only from a value that is neither sample (40 R152). Inferences these rules mark as the spec's own: derivations
in R152. -/
def Obligations.EmptyBus : Prop :=
  (∀ (p : Half) (as rest : List Half) (s : State), PortReady p s → as.length = 144 →
    (∀ a ∈ as, a.setWidth 8 = 0xFF#8) → s.bus.answers = as ++ rest →
    ∃ t, PortsOnly (List.replicate 144 (.rd8 p 0xFF)) s t ∧ t.bus.answers = rest ∧
      exec .idRead s = .next (setResult (.failed .idChecksum)
        { t with iso := { t.iso with id := 0, bitcnt := 72, lfsr := 0xB5 }, wr := { t.wr with id := true } })) ∧
  (∀ (s t : State) (v : Half), exec .idRead s = .next t → t.result = .failed (.noCard v) →
    v ≠ 0xAA55 ∧ v ≠ 0xFFFF)

/-- `ID.DECODE`: the vendor's three characters, the product and the serial number from the identifier's bytes (40
R151, 30 R103, R104). Inferences these rules mark as the spec's own: decisions D4, D5. -/
def Obligations.IdDecode : Prop :=
  ∀ s : State, PnpReady s → s.wr.id = true →
    exec .idDecode s = .next (setResult
      (.identity
        ⟨0x40 + (s.iso.id.extractLsb' 2 5).setWidth 8,
          0x40 + (s.iso.id.extractLsb' 0 2 ++ s.iso.id.extractLsb' 13 3).setWidth 8,
          0x40 + (s.iso.id.extractLsb' 8 5).setWidth 8⟩
        (s.iso.id.extractLsb' 16 8 ++ s.iso.id.extractLsb' 24 8)
        (s.iso.id.extractLsb' 56 8 ++ s.iso.id.extractLsb' 48 8 ++ s.iso.id.extractLsb' 40 8 ++
          s.iso.id.extractLsb' 32 8)) s)

/-- `ISO.ROUND` on the samples of a whole identifier: a wake before every round but the first, the isolation select,
the reads; then, when the checksum agrees, the next CSN, the table entry, `CSUM` cleared and the card's resource data
to be read, else `none` with the table as it was. After fewer than 72 good samples and a bad one the round makes no
further read and ends with `none` too. It completes from every such state whatever the bus answers, in one of these
two ways (40 R155, R150). The samples, the identity and the isolation select are those of 30 R101, R103, 40 R151 and
R147. The resource data is read by the steps that follow, `RD.DECODE` and then the round's result; that they are steps
of their own is the model's (log 10), and so are the version numbers 0 of the empty record (log 47) and the place the
entry has until it is counted (log 48). Inferences these rules mark as the spec's own: decisions D3, D4, D5, D6, D7,
D8, D14, D39; general knowledge in R147; derivations in R150. -/
def Obligations.IsoRound : Prop :=
  (∀ (p : Half) (first : Bool) (x : BitVec 72) (rest : List Half) (s : State), PortReady p s → s.dev.length < 10 →
    s.bus.answers = idAnswers x ++ rest →
    let reads := (if first then [] else cfgPair s.cfg.num.wake 0x00) ++ [.wr8 0x279 s.cfg.num.serialIsolation] ++
      (idAnswers x).map fun a => .rd8 p (a.setWidth 8)
    let n := BitVec.ofNat 8 (s.dev.length + 1)
    if x.extractLsb' 64 8 = idChecksum x then
      ∃ t, PortsOnly (reads ++ cfgPair s.cfg.num.csn n) s t ∧ t.bus.answers = rest ∧
        exec (.isoRound first) s = .next (push [.op (.rdDecode (BitVec.ofNat 8 s.dev.length)), .answer .found]
          { t with
            iso := { t.iso with id := x, bitcnt := 72, lfsr := idChecksum x }
            wr := { t.wr with id := true, csum := true }
            dec := { t.dec with csum := 0 }
            dev := t.dev ++ [⟨idVendor x, idProduct x, idSerial x, n, Crd.empty⟩]
            fresh := none })
    else
      ∃ t, PortsOnly reads s t ∧ t.bus.answers = rest ∧
        exec (.isoRound first) s = .next (setResult .noneFound
          { t with
            iso := { t.iso with id := x, bitcnt := 72, lfsr := idChecksum x }
            wr := { t.wr with id := true } })) ∧
  (∀ (p a b : Half) (first : Bool) (bits : List Bool) (rest : List Half) (s : State), PortReady p s →
    s.dev.length < 10 → bits.length < 72 →
    (b.setWidth 8 ++ a.setWidth 8 : Half) ≠ 0xAA55 → (b.setWidth 8 ++ a.setWidth 8 : Half) ≠ 0xFFFF →
    s.bus.answers = bits.flatMap sampleAnswers ++ a :: b :: rest →
    ∃ t, PortsOnly ((if first then [] else cfgPair s.cfg.num.wake 0x00) ++ [.wr8 0x279 s.cfg.num.serialIsolation] ++
        (bits.flatMap sampleAnswers ++ [a, b]).map fun v => .rd8 p (v.setWidth 8)) s t ∧
      t.bus.answers = rest ∧
      exec (.isoRound first) s = .next (setResult .noneFound
        { t with
          iso := { t.iso with
            id := (BitVec.ofBoolListLE bits).setWidth 72
            bitcnt := BitVec.ofNat 7 bits.length
            lfsr := (bits.take 64).foldl lfsrShift 0x6A }
          wr := { t.wr with id := true } })) ∧
  (∀ (p : Half) (first : Bool) (s : State), PortReady p s → s.dev.length < 10 →
    ∃ t, exec (.isoRound first) s = .next t ∧
      ((t.dev.length = s.dev.length + 1 ∧ t.log = s.log ∧
          t.ctl.main.todo = .op (.rdDecode (BitVec.ofNat 8 s.dev.length)) :: .answer .found :: s.ctl.main.todo) ∨
        (t.dev = s.dev ∧ t.log = s.log ∧ t.dec = s.dec ∧ t.result = .noneFound ∧
          t.ctl.main.todo = s.ctl.main.todo))) ∧
  ∀ (p : Half) (first : Bool) (s : State), PortReady p s → 10 ≤ s.dev.length →
    exec (.isoRound first) s = .refused .tableFull

/-- The engine and the scan, step by step: `PNP.ENGINE` from `PowerOn` is the key, the scan, the allocator; `ISO.ENUM`
goes through the 128 candidates, the further parts pushed as tasks (log 10); each is announced in `PHASE`, woken and
made the read port; rounds go on while one finds a card and the table has room; a candidate that found a card ends the
scan (40 R156, R157, the data byte as 30 R106 has it). What a full table answers is the model's (log 35), and so is
that `ISO.ENUM` asks for no `PHASE` (log 44) and `PNP.ENGINE` for no key (log 17). Inferences these rules mark as the
spec's own: decisions D14; general knowledge in R106. -/
def Obligations.ScanSteps : Prop :=
  (∀ s : State, s.ctl.inIrq = false → s.phase = .powerOn →
    exec .pnpEngine s =
      .next (push [.op .keySend, .setPhase .keySent, .op .isoEnum, .op .cfgAll, .setPhase .configured] s)) ∧
  (∀ s : State, s.ctl.inIrq = false → s.phase ≠ .powerOn → exec .pnpEngine s = .refused .badPhase) ∧
  (∀ s : State, PnpReady s →
    exec .isoEnum s = .next (push [.enumAt 0] s) ∧
    (∀ k < 128, ∃ t, PortsOnly
        (cfgPair s.cfg.num.wake 0x00 ++ cfgPair s.cfg.num.setRdData (BitVec.ofNat 8 (0x80 + k))) s t ∧
      runTask (.enumAt k) s = .next (push [.enumRounds k true false]
        { t with
          phase := .scanning (BitVec.ofNat 16 (0x203 + 4 * k))
          iso := { t.iso with rdp := BitVec.ofNat 16 (0x203 + 4 * k) }
          wr := { t.wr with rdp := true } })) ∧
    runTask (.enumAt 128) s = .next (setResult .unit { s with phase := .enumerated }) ∧
    ∀ (k : Nat) (first found : Bool),
      (s.dev.length < 10 →
        runTask (.enumRounds k first found) s = .next (push [.op (.isoRound first), .enumAfter k found] s)) ∧
      (10 ≤ s.dev.length →
        runTask (.enumRounds k first found) s = .next (setResult (.failed .deviceTableFull)
          { s with phase := .enumerated, log := s.log ++ [.deviceTableFull] })) ∧
      (s.result = .found → runTask (.enumAfter k found) s = .next (push [.enumRounds k false true] s)) ∧
      (s.result ≠ .found → found = true →
        runTask (.enumAfter k found) s = .next (setResult .unit { s with phase := .enumerated })) ∧
      (s.result ≠ .found → found = false → runTask (.enumAfter k found) s = .next (push [.enumAt (k + 1)] s)))

/-! ### The resource decoder -/

/-- `RD.BYTE`: the status register is read; when its bit 0 is set the data register is read, added to `CSUM` and
returned; when it is clear only that poll was made and the operation goes on polling (41 R170). That the poll goes on
in the next step is the model's (log 12). Inferences these rules mark as the spec's own: general knowledge in R170. -/
def Obligations.RdByte : Prop :=
  ∀ (p : Half) (s : State), StreamReady p s →
    (∃ st t, (∀ a rest, s.bus.answers = a :: rest → st = a.setWidth 8) ∧
      ((st.getLsbD 0 = true ∧ ∃ b, PortsOnly (cfgGet p s.cfg.num.status st ++ cfgGet p s.cfg.num.resourceData b) s t ∧
          exec .rdByte s = .next (setResult (.byte b) { t with dec := { t.dec with csum := t.dec.csum + b } })) ∨
        (st.getLsbD 0 = false ∧ PortsOnly [.wr8 0x279 s.cfg.num.status, .rd8 p st] s t ∧
          exec .rdByte s = .next (push [.op .rdByte] t)))) ∧
    (∀ (st v : Half) (rest : List Half), s.bus.answers = st :: v :: rest → st.getLsbD 0 = true →
      ∃ t, PortsOnly (cfgGet p s.cfg.num.status (st.setWidth 8) ++
          cfgGet p s.cfg.num.resourceData (v.setWidth 8)) s t ∧
        t.bus.answers = rest ∧ exec .rdByte s = .next (setResult (.byte (v.setWidth 8))
          { t with dec := { t.dec with csum := t.dec.csum + v.setWidth 8 } }))

/-- `RD.HEADER` on a ready card (41 R170): a header byte with bit 7 clear is a small record's tag and length, one with
bit 7 set a large record's tag, with a length of two more bytes, low first; all of them are summed. An interrupted
header goes on where it was (41 R171, 30 R108, R109). That a wait is one step per poll is the model's (log 12).
Inferences these rules mark as the spec's own: general knowledge in R170. -/
def Obligations.RdHeader : Prop :=
  (∀ (p : Half) (h : Byte) (rest : List Half) (s : State), StreamReady p s → h.getLsbD 7 = false →
    s.bus.answers = readyAnswers [h] ++ rest →
    ∃ t, PortsOnly (readyTrace s.cfg.num p [h]) s t ∧ t.bus.answers = rest ∧
      exec .rdHeader s = .next (setResult
        (.header .small ((h.extractLsb' 3 4).setWidth 8) ((h.extractLsb' 0 3).setWidth 16))
        { t with dec := { t.dec with csum := t.dec.csum + h } })) ∧
  (∀ (p : Half) (h l0 l1 : Byte) (rest : List Half) (s : State), StreamReady p s → h.getLsbD 7 = true →
    s.bus.answers = readyAnswers [h, l0, l1] ++ rest →
    ∃ t, PortsOnly (readyTrace s.cfg.num p [h, l0, l1]) s t ∧ t.bus.answers = rest ∧
      exec .rdHeader s = .next (setResult (.header .large h (l1 ++ l0))
        { t with dec := { t.dec with csum := t.dec.csum + byteSum [h, l0, l1] } })) ∧
  (∀ (p : Half) (h l0 l1 : Byte) (got bs : List Byte) (rest : List Half) (s : State), StreamReady p s →
    h.getLsbD 7 = true → got ++ bs = [h, l0, l1] → bs ≠ [] → s.bus.answers = readyAnswers bs ++ rest →
    ∃ t, PortsOnly (readyTrace s.cfg.num p bs) s t ∧ t.bus.answers = rest ∧
      runTask (.headerRest got) s = .next (setResult (.header .large h (l1 ++ l0))
        { t with dec := { t.dec with csum := t.dec.csum + byteSum bs } })) ∧
  (∀ (p st : Half) (got : List Byte) (rest : List Half) (s : State), StreamReady p s → got.length < 3 →
    st.getLsbD 0 = false → s.bus.answers = st :: rest →
    ∃ t, PortsOnly [.wr8 0x279 s.cfg.num.status, .rd8 p (st.setWidth 8)] s t ∧ t.bus.answers = rest ∧
      runTask (.headerRest got) s = .next (push [.headerRest got] t)) ∧
  ∀ s : State, PnpReady s → exec .rdHeader s = runTask (.headerRest []) s

/-- `RD.BODY len` on a ready card (41 R170) reads and sums exactly `len` bytes and answers them in order, and with
`len` 0 reads nothing and needs no card; an interrupted body goes on where it was (41 R172; log 12). Inferences these
rules mark as the spec's own: decisions D10; general knowledge in R170. -/
def Obligations.RdBody : Prop :=
  (∀ (p len : Half) (bs : List Byte) (rest : List Half) (s : State), StreamReady p s → bs.length = len.toNat →
    s.bus.answers = readyAnswers bs ++ rest →
    ∃ t, AfterBody p bs s t ∧ t.bus.answers = rest ∧ exec (.rdBody len) s = .next t) ∧
  (∀ (p : Half) (got bs : List Byte) (rest : List Half) (s : State), StreamReady p s →
    s.bus.answers = readyAnswers bs ++ rest →
    ∃ t, PortsOnly (readyTrace s.cfg.num p bs) s t ∧ t.bus.answers = rest ∧
      runTask (.bodyRest .plain bs.length got) s = .next (setResult (.body (got.reverse ++ bs))
        { t with dec := { t.dec with csum := t.dec.csum + byteSum bs } })) ∧
  (∀ (p st : Half) (use : BodyUse) (n : Nat) (got : List Byte) (rest : List Half) (s : State), StreamReady p s →
    st.getLsbD 0 = false → s.bus.answers = st :: rest →
    ∃ t, PortsOnly [.wr8 0x279 s.cfg.num.status, .rd8 p (st.setWidth 8)] s t ∧ t.bus.answers = rest ∧
      runTask (.bodyRest use (n + 1) got) s = .next (push [.bodyRest use (n + 1) got] t)) ∧
  ∀ s : State, PnpReady s → exec (.rdBody 0) s = .next (setResult (.body []) s)

/-- The records that attach to a logical device: stored while there is room, else one diagnostic and nothing stored.
An IRQ record takes the next IRQ register pair and a range record the next I/O pair (41 R175 to R178, R181, R182,
R185). A memory range is stored only with `MEM_RECORDS = store_raw`; with `reject` its tag is unknown (10 R36; log
20). Before any logical device they leave one `OrphanRecord` and nothing else; after a dropped one, nothing at all.
Missing body bytes read as 0. A compatible id is packed as 30 R104 has it. The record layouts are fixed and no
parameters, the model's choice (log 9). The card being decoded is a field of the model (log 19), and so is the place a
new entry has until it is counted, empty afterwards (log 48). Inferences these rules mark as the spec's own: decisions
D5, D11, D12, D13; general knowledge in R176. -/
def Obligations.AttachedRecords : Prop :=
  (∀ (d : Nat) (body : List Byte) (s : State), DecodingAt d s → CurldInUse d s →
    (∀ j : Fin 4, s.dec.curld = .index j →
      let b (i : Nat) : Byte := body.getD i 0
      let id : DevId := decodeDevId (b 0) (b 1) (b 2) (b 3)
      let irq : IrqRes := ⟨b 1 ++ b 0, if 3 ≤ body.length then b 2 else 0x01, s.dec.irqcfg, none⟩
      let io : IoRange := ⟨b 0, b 2 ++ b 1, b 4 ++ b 3, b 5, b 6, s.dec.iocfg, none⟩
      let l := s.ld d j
      let uncounted : State := { s with fresh := none }
      exec (.recCompat body) s = .next
        (if l.compat.length < 10 then modLd d j (fun l => { l with compat := l.compat ++ [id] }) uncounted
        else { s with log := s.log ++ [.capacityCompat] }) ∧
      exec (.recIrq body) s = .next
        (if l.irq = none then
          modLd d j (fun l => { l with irq := some irq })
            { s with dec := { s.dec with irqcfg := s.dec.irqcfg + s.cfg.cfgStep } }
        else { s with log := s.log ++ [.capacityIrq] }) ∧
      exec (.recDma body) s = .next
        (if l.dma = none then modLd d j (fun l => { l with dma := some ⟨b 0, b 1⟩ }) s
        else { s with log := s.log ++ [.capacityDma] }) ∧
      exec (.recIoport body) s = .next
        (if l.io.length < 8 then
          modLd d j (fun l => { l with io := l.io ++ [io] })
            { uncounted with dec := { s.dec with iocfg := s.dec.iocfg + s.cfg.cfgStep } }
        else { s with log := s.log ++ [.capacityIo] }) ∧
      (s.cfg.memRecords = .storeRaw →
        exec (.recMem body) s = .next
          (if l.mem.length < 4 then modLd d j (fun l => { l with mem := l.mem ++ [⟨.mem16, body⟩] }) uncounted
          else { s with log := s.log ++ [.capacityMem] }) ∧
        exec (.recMem32 body) s = .next
          (if l.mem.length < 4 then modLd d j (fun l => { l with mem := l.mem ++ [⟨.mem32, body⟩] }) uncounted
          else { s with log := s.log ++ [.capacityMem] }))) ∧
    ∀ i ∈ [Instr.recCompat body, .recIrq body, .recDma body, .recIoport body] ++
        (if s.cfg.memRecords = .storeRaw then [.recMem body, .recMem32 body] else []),
      (s.dec.curld = .none → exec i s = .next { s with log := s.log ++ [.orphanRecord] }) ∧
      (s.dec.curld = .overflow → exec i s = .next s)) ∧
  ∀ (body : List Byte) (s : State), PnpReady s → s.cfg.memRecords = .reject →
    exec (.recMem body) s = exec (.recUnknown .large s.cfg.num.tagMem) s ∧
    exec (.recMem32 body) s = exec (.recUnknown .large s.cfg.num.tagMem32) s

/-- The records of the card itself: version, a new logical device with its counters at 0x60 and 0x70 or
`CapacityLogicalDevice` at the fifth, the identifier string of the card or of its current logical device, the end tag,
which passes on a checksum byte of 0, without looking at the sum, or a running sum of 0, and an unrecognised tag,
which raises `UnknownTag` (41 R173, R174, R179, R180, R183). A device id is packed as 30 R104 has it. The record
layouts are fixed and no parameters, the model's choice (log 9). The card they go to is the one being decoded, a field
of the state (log 19), and so is the place a new logical device has until it is counted (log 48); an identifier string
for a `CURLD` index that no entry of the table uses is dropped (log 18). Inferences these rules mark as the spec's
own: decisions D5, D9, D13; general knowledge in R183. -/
def Obligations.CardRecords : Prop :=
  (∀ (d : Nat) (body : List Byte) (s : State), DecodingAt d s →
    let b (i : Nat) : Byte := body.getD i 0
    let text := match s.cfg.ansiMax with
      | none => body
      | some n => body.take n
    exec (.recVersion body) s = .next (modCrd d (fun c => { c with version := b 0, vendorVersion := b 1 }) s) ∧
    (∀ j : Fin 4, (s.device d).crd.lds.length = j →
      exec (.recLogdev body) s = .next (modCrd d
        (fun c => { c with lds := c.lds ++
          [{ LogicalDevice.empty with id := decodeDevId (b 0) (b 1) (b 2) (b 3), flags := b 4 }] })
        { s with
          fresh := none
          dec := { s.dec with curld := .index j, iocfg := 0x60, irqcfg := 0x70 }
          wr := { s.wr with curld := true } })) ∧
    (4 ≤ (s.device d).crd.lds.length →
      exec (.recLogdev body) s = .next
        { s with
          dec := { s.dec with curld := .overflow }
          wr := { s.wr with curld := true }
          log := s.log ++ [.capacityLogicalDevice] }) ∧
    (s.dec.curld = .none → exec (.recAnsi body) s = .next (modCrd d (fun c => { c with ident := text }) s)) ∧
    (∀ j, s.dec.curld = .index j →
      exec (.recAnsi body) s = .next (modLd d j (fun l => { l with ident := some text }) s)) ∧
    (s.dec.curld = .overflow → exec (.recAnsi body) s = .next s)) ∧
  ∀ s : State, PnpReady s →
    (∀ body, (s.wr.csum = true ∨ body.getD 0 0 = 0#8) → exec (.recEnd body) s =
      .next (setResult (if body.getD 0 0 = 0#8 ∨ s.dec.csum = 0#8 then .pass else .fail) s)) ∧
    ∀ form tag, exec (.recUnknown form tag) s =
      .next (setResult (.failed (.unknownTag form tag)) { s with log := s.log ++ [.unknownTag form tag] })

/-- An update of one logical device leaves every other one, and every card's own data, as they were (10 R31 to R33).
Inferences these rules mark as the spec's own: general knowledge in R32, R33. -/
def Obligations.TableUpdate : Prop :=
  ∀ (s : State) (i j : Nat) (f : LogicalDevice → LogicalDevice), LdThere s i j →
    modLd i j f s = { s with dev := (modLd i j f s).dev } ∧
    (modLd i j f s).dev.length = s.dev.length ∧
    (modLd i j f s).ld i j = f (s.ld i j) ∧
    ∀ i', (((modLd i j f s).device i').crd.lds.length = (s.device i').crd.lds.length ∧
      { (modLd i j f s).device i' with crd := { ((modLd i j f s).device i').crd with lds := [] } } =
        { s.device i' with crd := { (s.device i').crd with lds := [] } }) ∧
      ∀ j', (i' ≠ i ∨ j' ≠ j) → (modLd i j f s).ld i' j' = s.ld i' j'

/-- A recognised record header: the body is read from a ready card (41 R170), the length checked, the record's
operation run; a length outside the expected ones is logged and ends the card only with `LEN_MISMATCH_FATAL`. An end
tag of length 0 needs no card to read from. An unrecognised header raises `UnknownTag` and reads no body; so do the
memory ranges with `MEM_RECORDS = reject` (41 R183, R184, R186, 30 R121). The expected lengths are fixed and no
parameters, the model's choice (log 9). That a header byte is an instruction of its own is the model's reading (log
14), and the failure itself stands as the result where 41 R184 returns fail (log 25). Inferences these rules mark as
the spec's own: decisions D10, D12; general knowledge in R121, R170, R183, R186. -/
def Obligations.RecordHeaders : Prop :=
  (∀ (d : Nat) (p : Half) (bs : List Byte) (rest : List Half) (s : State), DecodingAt d s → StreamReady p s →
    s.bus.answers = readyAnswers bs ++ rest →
    let len := BitVec.ofNat 3 bs.length
    (bs.length ≤ 7 →
      RecordRow (.tagVersion len) (.recVersion bs) s.cfg.num.tagVersion (some [2]) p bs s ∧
      RecordRow (.tagLogdev len) (.recLogdev bs) s.cfg.num.tagLogdev (some [5, 6]) p bs s ∧
      RecordRow (.tagCompat len) (.recCompat bs) s.cfg.num.tagCompat (some [4]) p bs s ∧
      RecordRow (.tagIrq len) (.recIrq bs) s.cfg.num.tagIrq (some [2, 3]) p bs s ∧
      RecordRow (.tagDma len) (.recDma bs) s.cfg.num.tagDma (some [2]) p bs s ∧
      RecordRow (.tagIoport len) (.recIoport bs) s.cfg.num.tagIoport (some [7]) p bs s ∧
      RecordRow (.tagEnd len) (.recEnd bs) s.cfg.num.tagEnd (some [1]) p bs s) ∧
    (bs.length < 0x10000 →
      RecordRow (.tagAnsi (BitVec.ofNat 16 bs.length)) (.recAnsi bs) s.cfg.num.tagAnsi none p bs s ∧
      (s.cfg.memRecords = .storeRaw →
        RecordRow (.tagMem (BitVec.ofNat 16 bs.length)) (.recMem bs) s.cfg.num.tagMem (some [9]) p bs s ∧
        RecordRow (.tagMem32 (BitVec.ofNat 16 bs.length)) (.recMem32 bs) s.cfg.num.tagMem32 (some [17]) p bs s))) ∧
  (∀ s : State, PnpReady s → RecordRow (.tagEnd 0) (.recEnd []) s.cfg.num.tagEnd (some [1]) 0 [] s) ∧
  ∀ s : State, PnpReady s →
    let unknown (i : Instr) (form : RecForm) (tag : Byte) : Prop :=
      exec i s = .next (setResult (.failed (.unknownTag form tag)) { s with log := s.log ++ [.unknownTag form tag] })
    (∀ len, unknown (.smallUnknown0 len) .small 0x0 ∧ unknown (.smallUnknown6 len) .small 0x6 ∧
      unknown (.smallUnknown7 len) .small 0x7 ∧ unknown (.smallUnknown9 len) .small 0x9 ∧
      unknown (.smallUnknownA len) .small 0xA ∧ unknown (.smallUnknownB len) .small 0xB ∧
      unknown (.smallUnknownC len) .small 0xC ∧ unknown (.smallUnknownD len) .small 0xD ∧
      unknown (.smallUnknownE len) .small 0xE) ∧
    (∀ tag len, unknown (.largeUnknown tag len) .large tag) ∧
    (s.cfg.memRecords = .reject → ∀ len,
      unknown (.tagMem len) .large s.cfg.num.tagMem ∧ unknown (.tagMem32 len) .large s.cfg.num.tagMem32)

/-- The decode loop: `RD.DECODE` starts with no current logical device; a header selects its record; after a record, a
failure ends the loop, a passing end tag marks the card's data valid, a failing one raises `ResourceChecksum`, and any
other record is followed by the next header (41 R184). It starts from every state: that the card is in configuration
state and `CSUM` is 0 is not asked (log 33), the card is a field of the model (log 19), one that is not in use too
(log 18), each header, record and test is a step of its own (log 10), and the failure itself stands as the result
where the rule returns fail (log 25). -/
def Obligations.DecodeLoop : Prop :=
  (∀ (i : Byte) (s : State), PnpReady s →
    exec (.rdDecode i) s = .next (push [.op .rdHeader, .decodeDispatch, .decodeNext]
      { s with
        dec := { s.dec with card := some i.toNat, curld := .none }
        wr := { s.wr with curld := true } })) ∧
  (∀ (form : RecForm) (tag : Byte) (len : Half) (s : State), PnpReady s → s.result = .header form tag len →
    runTask .decodeDispatch s = .next (push [.op (recordInstr s.cfg.num form tag len)] s)) ∧
  (∀ (d : Nat) (s : State), PnpReady s → s.dec.card = some d →
    (∀ f, s.result = .failed f → runTask .decodeNext s = .next s) ∧
    (s.result = .pass →
      runTask .decodeNext s = .next (setResult .ok (modCrd d (fun c => { c with valid := true }) s))) ∧
    (s.result = .fail →
      runTask .decodeNext s = .next (setResult (.failed (.resourceChecksum s.dec.csum))
        { s with log := s.log ++ [.resourceChecksum s.dec.csum] })) ∧
    ((∀ f, s.result ≠ .failed f) → s.result ≠ .pass → s.result ≠ .fail →
      runTask .decodeNext s = .next (push [.op .rdHeader, .decodeDispatch, .decodeNext] s)))

/-! ### The allocator -/

/-- `CFG.MATCH` is true exactly when the logical device's id or one of its compatible ids is "PNP", 0x80D6; it makes
no access (42 R200). -/
def Obligations.CfgMatch : Prop :=
  ∀ (i j : Byte) (s : State), s.ctl.inIrq = false → Quiet s → LdThere s i.toNat j.toNat →
    ∃ b, (b = true ↔ isNe2000 (s.ld i.toNat j.toNat)) ∧ exec (.cfgMatch i j) s = .next (setResult (.bool b) s)

/-- `CFG.SELECT`, `CFG.ACTIVATE` and `CFG.IRQ` make exactly the register writes of their rules, the first two on any
logical device number, decoded or not; activation marks the logical device, and an IRQ is granted exactly when the
mask offers line 5 as high-true edge (42 R201, R204, R205). The mark on a logical device that is not in use is
dropped, the writes are made all the same (log 18). The second register of a pair is a byte and wraps (log 36).
Inferences these rules mark as the spec's own: decisions D17, D18; general knowledge in R201, R204, R205. -/
def Obligations.CfgCommits : Prop :=
  ∀ (i j : Byte) (s : State), PnpReady s →
    (i.toNat < s.dev.length →
      ∃ t, PortsOnly (cfgPair s.cfg.num.wake (s.device i.toNat).csn ++ cfgPair s.cfg.num.logicalDevice j) s t ∧
        exec (.cfgSelect i j) s = .next t) ∧
    (∃ t, PortsOnly (cfgPair s.cfg.num.logicalDevice j ++ cfgPair s.cfg.num.ioRangeCheck 0x00 ++
        cfgPair s.cfg.num.activate 0x01) s t ∧
      exec (.cfgActivate i j) s = .next (modLd i.toNat j.toNat (fun l => { l with active := true }) t)) ∧
    (LdThere s i.toNat j.toNat →
      (∀ r, (s.ld i.toNat j.toNat).irq = some r → r.mask.getLsbD 5 = true → r.info.getLsbD 0 = true →
        ∃ t, PortsOnly (cfgPair r.cfgreg 0x05 ++ cfgPair (r.cfgreg + 1) 0x02) s t ∧
          exec (.cfgIrq i j) s = .next (setResult .ok
            (modLd i.toNat j.toNat (fun l => { l with irq := some { r with assigned := some 5 } }) t))) ∧
      ((∀ r, (s.ld i.toNat j.toNat).irq = some r → r.mask.getLsbD 5 = false ∨ r.info.getLsbD 0 = false) →
        exec (.cfgIrq i j) s =
          .next (setResult (.failed .irqUnsupported) { s with log := s.log ++ [.irqUnsupported] })))

/-- `CFG.PROBE` reads every port upward and then downward, as often as the parameter says; the range is clean when
every read was 0xFF, and the first other value ends the probe as occupied. Nothing is written (42 R203). A range that
runs past 0xFFFF goes on at 0 (log 38). That the probe needs no key is the model's reading (log 17). Inferences these
rules mark as the spec's own: decisions D16. -/
def Obligations.CfgProbe : Prop :=
  ∀ (base : Half) (len : Byte) (s : State), s.ctl.inIrq = false → Quiet s →
    (∃ es t, PortsOnly es s t ∧
      ((es = cleanProbe s.cfg.probePasses base len.toNat ∧
          exec (.cfgProbe base len) s = .next (setResult .clean t)) ∨
        (OccupiedProbe s.cfg.probePasses base len.toNat es ∧
          exec (.cfgProbe base len) s = .next (setResult .occupied t)))) ∧
    (cleanProbe s.cfg.probePasses base len.toNat).length = 2 * len.toNat * s.cfg.probePasses

/-- `CFG.IO` tries the candidates in order from `max(0x280, min_base)` rounded up to the alignment, as long as they
are tried at all; every earlier one probed occupied; the first clean one is written to the card, high byte first, and
assigned, and without one the result is `NoFreeIoRange` (42 R202, R203). The second register of the pair is a byte and
wraps (log 36). Inferences these rules mark as the spec's own: decisions D16. -/
def Obligations.CfgIoSearch : Prop :=
  ∀ (i j k : Byte) (s : State), PnpReady s → LdThere s i.toNat j.toNat →
    k.toNat < (s.ld i.toNat j.toNat).io.length →
    let d := s.ioRange i.toNat j.toNat k.toNat
    let passes := s.cfg.probePasses
    ∃ (n : Nat) (ess : List (List Event)) (t : State), ess.length = n ∧
      (∀ m < n, IoTried d (ioCandidate d m) ∧
        OccupiedProbe passes (BitVec.ofNat 16 (ioCandidate d m)) d.len.toNat (ess.getD m [])) ∧
      let b := BitVec.ofNat 16 (ioCandidate d n)
      ((IoTried d (ioCandidate d n) ∧
          PortsOnly (ess.flatten ++ cleanProbe passes b d.len.toNat ++
            cfgPair d.cfgreg (b.extractLsb' 8 8) ++ cfgPair (d.cfgreg + 1) (b.extractLsb' 0 8)) s t ∧
          exec (.cfgIo i j k) s = .next (setResult .ok
            (modIo i.toNat j.toNat k.toNat (fun x => { x with assigned := some b }) t))) ∨
        (¬ IoTried d (ioCandidate d n) ∧ PortsOnly ess.flatten s t ∧
          exec (.cfgIo i j k) s = .next (setResult (.failed .noFreeIoRange)
            { t with log := t.log ++ [.noFreeIoRange] })))

/-- With every probe read 0xFF the assigned base is the least multiple of the alignment that is not below `max(0x280,
min_base)`, whenever it is tried at all (42 R202, R208). Inferences these rules mark as the spec's own: decisions D16;
derivations in R208. -/
def Obligations.CfgIoFirstCandidate : Prop :=
  ∀ (i j k : Byte) (base : Nat) (rest : List Half) (s : State), PnpReady s → LdThere s i.toNat j.toNat →
    k.toNat < (s.ld i.toNat j.toNat).io.length →
    let d := s.ioRange i.toNat j.toNat k.toNat
    alignment d ∣ base → max 0x280 d.minBase.toNat ≤ base → base < max 0x280 d.minBase.toNat + alignment d →
    IoTried d base →
    s.bus.answers = List.replicate (2 * d.len.toNat * s.cfg.probePasses) 0xFF#16 ++ rest →
    ∃ t, exec (.cfgIo i j k) s = .next t ∧ t.result = .ok ∧
      (t.ioRange i.toNat j.toNat k.toNat).assigned = some (BitVec.ofNat 16 base) ∧ t.bus.answers = rest

/-- `CFG.DEVICE` is its parts in order: select, every I/O range in stream order, the IRQ, activation. The first part
that fails ends it with `fail`, its effects and those before it kept, and the device is not activated (42 R206).
Inferences these rules mark as the spec's own: decisions D17. -/
def Obligations.CfgDevice : Prop :=
  ∀ (i j : Byte) (s : State), PnpReady s → LdThere s i.toNat j.toNat →
    (s.ld i.toNat j.toNat).io.length ≤ 8 →
    let parts := deviceParts i j (s.ld i.toNat j.toNat).io.length
    let ran (m : Nat) (u : State) : Prop := runInstrs (.cfgSelect i j :: parts.take m) s = .next u
    (∃ u v, ran parts.length u ∧ (∀ m < parts.length, ∃ w, ran (m + 1) w ∧ w.result = .ok) ∧
      exec (.cfgActivate i j) u = .next v ∧ (v.ld i.toNat j.toNat).active = true ∧
      exec (.cfgDevice i j) s = .next (setResult .ok v)) ∨
    (∃ n u, n < parts.length ∧ ran (n + 1) u ∧ u.result ≠ .ok ∧
      (∀ m < n, ∃ w, ran (m + 1) w ∧ w.result = .ok) ∧
      (u.ld i.toNat j.toNat).active = (s.ld i.toNat j.toNat).active ∧
      exec (.cfgDevice i j) s = .next (setResult .fail u))

/-- `CFG.ALL` is `CFG.DEVICE` on every eligible logical device of every card with valid data, in table order, whatever
each answers; no ineligible logical device changes, and no card's own data does: identity, CSN, version, string, valid
(42 R207). That the last device's answer stays in the result field is log 25. Inferences these rules mark as the
spec's own: decisions D17. -/
def Obligations.CfgAll : Prop :=
  ∀ s : State, PnpReady s → TableInv s →
    ∃ t, exec .cfgAll s = .next t ∧ runInstrs (eligible s) s = .next t ∧ t.dev.length = s.dev.length ∧
      (∀ i j, ((s.device i).crd.valid = false ∨ ¬ isNe2000 (s.ld i j)) → t.ld i j = s.ld i j) ∧
      (∀ i, (t.device i).crd.lds.length = (s.device i).crd.lds.length ∧
        { t.device i with crd := { (t.device i).crd with lds := [] } } =
          { s.device i with crd := { (s.device i).crd with lds := [] } }) ∧
      t = { s with dev := t.dev, log := t.log, ctl := t.ctl, bus := t.bus }

/-! ### The NIC driver -/

/-- `NE.PAGE`: no access when the page is selected, else a read of the command register and a write that keeps its
start and stop bits, commands no DMA and carries the page; numbers above 2 are page 0. At the default bit positions
the byte written is `(v and 0x03) or 0x20 or (p << 6)`. A second selection of the same page makes no access (43 R220,
R242). Inferences these rules mark as the spec's own: decisions D20; general knowledge in R220; derivations in R242.
-/
def Obligations.NePage : Prop :=
  (∀ (p : Nat) (s : State), AccessReady s →
    let m := s.cfg.num
    let q : RegPage := if p = 1 then .p1 else if p = 2 then .p2 else .p0
    let n : Byte := if p = 1 then 1 else if p = 2 then 2 else 0
    (s.nic.page = some q → exec (.nePage p) s = .next s) ∧
    (s.nic.page ≠ some q → ∃ v t,
      PortsOnly [.rd8 (s.nic.iobase + m.neCr) v, .wr8 (s.nic.iobase + m.neCr)
        ((v &&& ((1 <<< m.crStp) ||| (1 <<< m.crSta))) ||| (4 <<< m.crRd) ||| (n <<< m.crPs))] s t ∧
      exec (.nePage p) s = .next { t with nic := { t.nic with page := some q } })) ∧
  (∀ (v : Byte) (p : RegPage),
    pageCommand .default v p = (v &&& 0x03) ||| 0x20 ||| (match p with | .p0 => 0x00 | .p1 => 0x40 | .p2 => 0x80)) ∧
  (∀ (p q : Nat) (s : State), AccessReady s → pageOf p = pageOf q →
    runInstrs [.nePage p, .nePage q] s = runInstrs [.nePage p] s)

/-- The command accessor and the writing accessors: the boundary, current page, start address, byte count and remote
read force their page first (43 R220), the command and `NE.REG.WR` force none, and each makes exactly its writes, low
byte before high byte (43 R221 to R226, R228, R229, 30 R124, R125); a command carries the page bits of the page last
selected, 0 when none is known (43 R221). A remote read of 0 bytes and an offset outside the window are refused (93
U10, log 32). That the command-byte rows are the accessor with their page bits ignored is the model's reading (log
15), and so is that all of them run in either context (log 24). Inferences these rules mark as the spec's own:
decisions D19, D20, D23; general knowledge in R124, R220. -/
def Obligations.NeWrites : Prop :=
  ∀ s : State, AccessReady s →
    let m := s.cfg.num
    let command (i : Instr) (c : Byte) : Prop :=
      ∃ t, PortsOnly [neWr s m.neCr ((c &&& cmdMask m) ||| shadowBits s)] s t ∧ exec i s = .next t
    let paged (i : Instr) (p : RegPage) (es : List Event) : Prop :=
      ∃ v t, PortsOnly (pageTrace s p v ++ es) s t ∧ exec i s = .next (onPage p t)
    (∀ c, command (.neCmd c) c) ∧ command .neDmaStop m.cmdNodma ∧
    (∀ p : BitVec 2, command (.cmdStop p) (m.cmdStop ||| (p.setWidth 8 <<< m.crPs)) ∧
      command (.cmdStart p) (m.cmdStart ||| (p.setWidth 8 <<< m.crPs)) ∧
      command (.cmdRread p) (m.cmdRread ||| (p.setWidth 8 <<< m.crPs))) ∧
    cmdMask .default = 0x3F ∧
    (∀ v, paged (.neBnryWr v) .p0 [neWr s m.neBnry v] ∧ paged (.neCurrWr v) .p1 [neWr s m.neCurr v]) ∧
    (∀ a : Half,
      paged (.neRsar a) .p0 [neWr s m.neRsar0 (a.extractLsb' 0 8), neWr s m.neRsar1 (a.extractLsb' 8 8)] ∧
      paged (.neRbcr a) .p0 [neWr s m.neRbcr0 (a.extractLsb' 0 8), neWr s m.neRbcr1 (a.extractLsb' 8 8)]) ∧
    (∀ a n : Half, n ≠ 0 → paged (.neRdmaRead a n) .p0 (rdmaTrace s a n)) ∧
    (∀ a : Half, exec (.neRdmaRead a 0) s = .refused .zeroCount) ∧
    ∀ reg v : Byte,
      (reg.toNat ≤ 0x1F →
        ∃ t, PortsOnly [neWr s (BitVec.ofNat 16 reg.toNat) v] s t ∧ exec (.neRegWr reg v) s = .next t) ∧
      (0x1F < reg.toNat → exec (.neRegWr reg v) s = .refused .badOffset)

/-- The reading accessors: each makes exactly its read and answers its value. The boundary and the current page force
their page first (43 R220); the FIFO, read as a word or a byte, and `NE.REG.RD` force none (43 R222, R223, R227,
R229). An offset beyond the five-bit window is refused (log 32). That all of them run in either context is the model's
reading (log 24). Inferences these rules mark as the spec's own: decisions D20, D27; general knowledge in R220. -/
def Obligations.NeReads : Prop :=
  ∀ s : State, AccessReady s →
    let paged (i : Instr) (p : RegPage) (off : Half) : Prop :=
      ∃ v w t, PortsOnly (pageTrace s p v ++ [.rd8 (s.nic.iobase + off) w]) s t ∧
        exec i s = .next (setResult (.byte w) (onPage p t))
    paged .neBnryRd .p0 s.cfg.num.neBnry ∧ paged .neCurrRd .p1 s.cfg.num.neCurr ∧
    (∃ w t, PortsOnly (fifoTrace s [w]) s t ∧ exec .neFifoRd16 s = .next (setResult (.half w) t) ∧
      ∀ a rest, s.bus.answers = a :: rest → w = a ∧ t.bus.answers = rest) ∧
    (∃ w t, PortsOnly [.rd8 (s.nic.iobase + s.cfg.num.neData) w] s t ∧
      exec .neFifoRd8 s = .next (setResult (.byte w) t) ∧
      ∀ a rest, s.bus.answers = a :: rest → w = a.setWidth 8 ∧ t.bus.answers = rest) ∧
    ∀ reg : Byte,
      (reg.toNat ≤ 0x1F → ∃ w t, PortsOnly [.rd8 (s.nic.iobase + BitVec.ofNat 16 reg.toNat) w] s t ∧
        exec (.neRegRd reg) s = .next (setResult (.byte w) t)) ∧
      (0x1F < reg.toNat → exec (.neRegRd reg) s = .refused .badOffset)

/-- `NE.BIND` and `NE.INIT` on the first active NE2000 with an I/O range among the cards with valid data: its assigned
base is taken, the page is unknown, the queue handle is set; `NE.INIT` goes on with the fixed sequence. With none the
result is `NoNic`, and `NE.INIT` leaves `PHASE = NoNic` (43 R231, R241). The rest of `NE.INIT` is pushed as tasks (log
10). A driver that is bound already binds again, and `IOBASE` is written again, where 10 R28 says it is written once:
the model's choice (log 45). A base that the allocator never assigned gives some base and everything else as before
(log 21). Inferences these rules mark as the spec's own: decisions D20, D36. -/
def Obligations.NeBindInit : Prop :=
  ∀ s : State, s.ctl.inIrq = false → Quiet s →
    let none' : State := setResult (.failed .noNic) { s with log := s.log ++ [.noNic] }
    let tail : List Task := [.op .neReset, .op .neBasicinit, .op .neProm, .op .neMac, .op .neRing, .op .neStart,
      .op .neIrqen, .op .neHook, .op .neLbclr, .setPhase .running, .answer .running]
    ((∀ l ∈ validLds s, ¬ bindsTo l) →
      exec .neBind s = .next none' ∧
      (s.phase = .configured → exec .neInit s = .next { none' with phase := .noNic })) ∧
    (∀ (pre post : List LogicalDevice) (l : LogicalDevice) (r : IoRange) (rs : List IoRange),
      validLds s = pre ++ l :: post → (∀ l' ∈ pre, ¬ bindsTo l') → bindsTo l → l.io = r :: rs →
      let bound (u : State) (b : Half) : State :=
        { u with nic := { s.nic with iobase := b, page := none, qh := .queueQ, bound := true } }
      (∀ b, r.assigned = some b →
        exec .neBind s = .next (setResult .ok (bound s b)) ∧
        (s.phase = .configured → exec .neInit s = .next (push tail (bound s b)))) ∧
      (r.assigned = none → ∃ u b, u = { s with bus := { s.bus with draws := s.bus.draws + 1 } } ∧
        exec .neBind s = .next (setResult .ok (bound u b)) ∧
        (s.phase = .configured → exec .neInit s = .next (push tail (bound u b))))) ∧
    (s.phase ≠ .configured → exec .neInit s = .refused .badPhase)

/-- `NE.RESET` reads the reset port and writes the value back, `NE.START` writes the start command (43 R221); each
then reads the interrupt status until its bit 7 is set, or clear, and only then moves `PHASE`. A poll that does not
end them is followed by another, without bound (43 R232, R237, 60 R297; one poll a step, log 12). They run in every
`PHASE` and set their own, so given out of their place they move it back, where 10 R26 and 43 R230 say that it only
moves forward: the model's choice (log 45). Inferences these rules mark as the spec's own: decisions D20, D38, D42;
general knowledge in R232. -/
def Obligations.NePolls : Prop :=
  ∀ s : State, InitReady s →
    let m := s.cfg.num
    let isr : Half := s.nic.iobase + m.neIsr
    (∃ v st t, PortsOnly [.rd8 (s.nic.iobase + m.neReset) v, neWr s m.neReset v, .rd8 isr st] s t ∧
      exec .neReset s = .next
        (if st.getLsbD m.isrRst then { t with phase := .neReset } else push [.resetPoll] t)) ∧
    (∃ st t, PortsOnly [.rd8 isr st] s t ∧
      runTask .resetPoll s = .next
        (if st.getLsbD m.isrRst then { t with phase := .neReset } else push [.resetPoll] t)) ∧
    (∃ st t, PortsOnly [neWr s m.neCr ((m.cmdStart &&& cmdMask m) ||| shadowBits s), .rd8 isr st] s t ∧
      exec .neStart s = .next
        (if st.getLsbD m.isrRst then push [.startPoll] t else { t with phase := .neStarted })) ∧
    (∃ st t, PortsOnly [.rd8 isr st] s t ∧
      runTask .startPoll s = .next
        (if st.getLsbD m.isrRst then push [.startPoll] t else { t with phase := .neStarted })) ∧
    (∀ a b rest, s.bus.answers = a :: b :: rest → (b.setWidth 8 : Byte).getLsbD m.isrRst = true →
      ∃ t, exec .neReset s = .next t ∧ t.phase = .neReset ∧ t.bus.answers = rest ∧ t.ctl = s.ctl) ∧
    (∀ a rest, s.bus.answers = a :: rest → (a.setWidth 8 : Byte).getLsbD m.isrRst = false →
      ∃ t, exec .neStart s = .next t ∧ t.phase = .neStarted ∧ t.bus.answers = rest ∧ t.ctl = s.ctl)

/-- The other initialisation steps: each makes exactly its accesses in its order, leaves its page selected (43 R220,
R221) and moves `PHASE` where its rule says (43 R233 to R236, R238 to R240). The values written are the parameters of
00 R9. A step given out of its place runs all the same and sets its own `PHASE`, where 10 R26 and 43 R230 say that it
only moves forward: the model's choice (log 45). `NE.HOOK` opens the way for a handler run before its last write:
where one starts there, the rest of the step waits for it (60 R301; log 10). That it starts at a boundary whose drawn
delay is 0 is the model's way to leave the moment open (log 11), and the two requests to the interrupt controller
stand in the traffic (log 30). `NE.LBCLR` runs where a handler run can start, and no run splits its page selection and
its two writes: the first boundary that can start one is after them, when `IF` has its value back (D43). Inferences
these rules mark as the spec's own: decisions D20, D21, D22, D23, D30, D35, D38, D43; general knowledge in R233, R301,
R220. -/
def Obligations.NeSetup : Prop :=
  (∀ s : State, InitReady s →
    let m := s.cfg.num
    let command (c : Byte) : Event := neWr s m.neCr (c &&& cmdMask m)
    (∃ v t, PortsOnly (pageTrace s .p0 v ++ [command m.cmdStop, neWr s m.neDcr s.cfg.dcrInit, neWr s m.neRbcr0 0x00,
        neWr s m.neRbcr1 0x00, neWr s m.neRcr s.cfg.rcrInit, neWr s m.neTcr s.cfg.tcrInit]) s t ∧
      exec .neBasicinit s = .next { onPage .p0 t with phase := .neBasicInit }) ∧
    (s.nic.prom.length = 32 →
      ∃ v ws t, ws.length = 16 ∧ PortsOnly (pageTrace s .p0 v ++ rdmaTrace s 0x0000 32 ++ fifoTrace s ws) s t ∧
        (∀ as rest, s.nic.page = some .p0 → s.bus.answers = as ++ rest → as.length = 16 →
          ws = as ∧ t.bus.answers = rest) ∧
        exec .neProm s = .next { onPage .p0 t with
          nic := { (onPage .p0 t).nic with prom := ws.flatMap fun w => [w.extractLsb' 0 8, w.extractLsb' 8 8] }
          wr := { t.wr with prom := true } }) ∧
    (∀ a b c d e f rest, s.wr.prom = true → s.nic.prom = [a, b, c, d, e, f] ++ rest →
      ∃ v t, PortsOnly (pageTrace s .p1 v ++ [neWr s m.nePar0 a, neWr s (m.nePar0 + 1) b, neWr s (m.nePar0 + 2) c,
          neWr s (m.nePar0 + 3) d, neWr s (m.nePar0 + 4) e, neWr s (m.nePar0 + 5) f]) s t ∧
        exec .neMac s = .next { onPage .p1 t with phase := .neMacProgrammed }) ∧
    (∃ v v₁ v₀ t, PortsOnly (pageTrace s .p0 v ++
        [neWr s m.nePstart s.cfg.ringStart, neWr s m.nePstop s.cfg.ringStop, neWr s m.neBnry s.cfg.ringStart] ++
        [.rd8 (s.nic.iobase + m.neCr) v₁, neWr s m.neCr (pageCommand m v₁ .p1), neWr s m.neCurr s.cfg.ringStart] ++
        [.rd8 (s.nic.iobase + m.neCr) v₀, neWr s m.neCr (pageCommand m v₀ .p0)]) s t ∧
      exec .neRing s = .next { t with
        nic := { t.nic with page := some .p0, nextPkt := s.cfg.ringStart }
        wr := { t.wr with nextPkt := true }
        phase := .neRingConfigured }) ∧
    (∃ v t, PortsOnly (pageTrace s .p0 v ++ [neWr s m.neImr s.cfg.imrInit]) s t ∧
      exec .neIrqen s = .next (onPage .p0 t)) ∧
    (∃ v t, PortsOnly (pageTrace s .p0 v ++ [neWr s m.neDcr s.cfg.dcrRun, neWr s m.neTcr s.cfg.tcrRun]) s t ∧
      exec .neLbclr s = .next { onPage .p0 t with phase := .neLoopbackCleared })) ∧
  ∀ s : State, s.ctl.inIrq = false → s.nic.bound = true →
    let hooked (b : Bus) : State := { s with
      fl := { s.fl with handlerSet := true, lineMasked := false }
      bus := { b with trace := s.bus.trace ++ [.registerHandler s.cfg.irqVector, .unmaskLine 5] } }
    (∃ v got t, PortsOnly (pageTrace s .p0 v ++ [neWr s s.cfg.num.neDcr s.cfg.dcrRun,
        neWr s s.cfg.num.neTcr s.cfg.tcrRun]) s t ∧
      (let u := deliver (onPage .p0 t)
      exec .neLbclr s = .next (if u.ctl.inIrq then suspendAs (.resume (.op .neLbclr) got) u
        else { u with phase := .neLoopbackCleared })) ∧
      ∀ w : State, w.ctl.inIrq = false →
        runTask (.resume (.op .neLbclr) got) w = .next { w with phase := .neLoopbackCleared }) ∧
    (s.fl.ifl = false → exec .neHook s = .next { hooked s.bus with phase := .neInterruptsEnabled }) ∧
    (s.fl.handlerSet = false → s.fl.lineMasked = true → s.fl.ifl = true → s.bus.countdown = none →
      (∀ rest, s.bus.lineAnswers = false :: rest →
        exec .neHook s =
          .next { hooked { s.bus with lineAnswers := rest } with phase := .neInterruptsEnabled }) ∧
      ∀ rest ds, s.bus.lineAnswers = true :: rest → s.bus.delays = 0 :: ds →
        ∃ got t, exec .neHook s = .next t ∧ SplitAt (.op .neHook) got s t ∧ t.phase = s.phase ∧
          t.bus.trace = (hooked s.bus).bus.trace ∧ t.fl.handlerSet = true ∧
          ∀ u : State, u.ctl.inIrq = false →
            runTask (.resume (.op .neHook) got) u = .next { u with phase := .neInterruptsEnabled })

/-! ### The receive pipeline -/

/-- The handler's frame: `RX.IRQ` samples the interrupt status on page 0 (43 R220) and starts the loop; `RX.PENDING`
compares `NEXT_PKT` with the current page; a turn of the loop runs `RX.FRAME` and turns again while a frame is
pending, else it acknowledges; `RX.ACK` writes the sampled bits back (44 R260, R261, R271). One turn is one step (log
10). With a handler registered a run can be on in any `PHASE`, the model's reading (log 34). Inferences these rules
mark as the spec's own: decisions D20, D28; general knowledge in R271, R220. -/
def Obligations.RxLoop : Prop :=
  ∀ s : State, RxReady s →
    (s.wr.nextPkt = true →
      (∃ v st t, PortsOnly (pageTrace s .p0 v ++ [.rd8 (s.nic.iobase + s.cfg.num.neIsr) st]) s t ∧
        exec .rxIrq s = .next (push [.irqLoop] { onPage .p0 t with
          rx := { t.rx with isrseen := st }
          wr := { t.wr with isrseen := true } })) ∧
      ∃ v c t, PortsOnly (pageTrace s .p1 v ++ [.rd8 (s.nic.iobase + s.cfg.num.neCurr) c]) s t ∧
        exec .rxPending s = .next (setResult (.bool (decide (s.nic.nextPkt ≠ c))) (onPage .p1 t)) ∧
        (s.wr.isrseen = true →
          (s.nic.nextPkt ≠ c → ∃ w, exec .rxFrame (onPage .p1 t) = .next w ∧
            runTask .irqLoop s = .next (push [.irqLoop] w)) ∧
          (s.nic.nextPkt = c → runTask .irqLoop s = exec .rxAck (onPage .p1 t)))) ∧
    (s.wr.isrseen = true →
      ∃ v t, PortsOnly (pageTrace s .p0 v ++ [neWr s s.cfg.num.neIsr s.rx.isrseen]) s t ∧
        exec .rxAck s = .next (onPage .p0 t))

/-- `RX.RUNT` and `RX.CLASSIFY`: below 64 is a runt, logged; strictly above 0x0600 is Ethernet-II (44 R263, R266, 30
R128). The hypotheses are the preconditions that the lines before 44 R260 give; a handler run that is on in another
`PHASE` is the business of `RxSteps`. -/
def Obligations.RxTests : Prop :=
  ∀ s : State, s.ctl.inIrq = true → s.nic.bound = true → s.phase.handlerLive = true →
    (s.wr.hdr = true → s.rx.hdrTotal.toNat < 64 →
      exec .rxRunt s = .next (setResult (.bool true) { s with log := s.log ++ [.runt s.rx.hdrTotal] })) ∧
    (s.wr.hdr = true → 64 ≤ s.rx.hdrTotal.toNat → exec .rxRunt s = .next (setResult (.bool false) s)) ∧
    (s.wr.etype = true → 0x0600 < s.rx.etype.toNat → exec .rxClassify s = .next (setResult .etherII s)) ∧
    (s.wr.etype = true → s.rx.etype.toNat ≤ 0x0600 → exec .rxClassify s = .next (setResult .etherI s))

/-- `RX.ALLOC` requests the record, then `HDR_TOTAL - 18` payload bytes; when the second is refused the record goes
back, and either refusal leaves one diagnostic and no frame (44 R264, 20 R75); the failure itself stands as the result
where the rule returns fail (log 25). With a handler registered a run can be on in any `PHASE`, the model's reading
(log 34). A total below 18 wraps (log 26); the handles are numbers from a counter (log 23), and the requests stand in
the traffic (log 30). Inferences these rules mark as the spec's own: decisions D29. -/
def Obligations.RxAlloc : Prop :=
  ∀ s : State, RxReady s → s.wr.hdr = true → HeapInv s →
    let size : Half := s.rx.hdrTotal - 18
    let h := s.heap.next
    ∃ (a₁ a₂ : Bool) (b : Bus), b.agents = s.bus.agents ∧ b.answers = s.bus.answers ∧
      (∀ x y rest, s.bus.allocAnswers = x :: y :: rest → a₁ = x ∧ (x = true → a₂ = y)) ∧
      (a₁ = false → b.trace = s.bus.trace ++ [.alloc s.cfg.frameRecSize none] ∧
        exec .rxAlloc s = .next (setResult (.failed .allocFrame)
          { s with
            log := s.log ++ [.allocFrame]
            rx := { s.rx with fr := none }
            wr := { s.wr with fr := true }
            bus := b })) ∧
      (a₁ = true → a₂ = false →
        b.trace = s.bus.trace ++
          [.alloc s.cfg.frameRecSize (some h), .alloc size.toNat none, .release h] ∧
        exec .rxAlloc s = .next (setResult (.failed (.allocPayload size))
          { s with
            log := s.log ++ [.allocPayload size]
            rx := { s.rx with fr := none }
            wr := { s.wr with fr := true }
            heap := ⟨s.heap.live, h + 1⟩
            bus := b })) ∧
      (a₁ = true → a₂ = true →
        b.trace = s.bus.trace ++
          [.alloc s.cfg.frameRecSize (some h), .alloc size.toNat (some (h + 1))] ∧
        exec .rxAlloc s = .next (setResult .ok
          { s with
            rx := { s.rx with fr := some ⟨h, h + 1, size, none⟩ }
            wr := { s.wr with fr := true }
            heap := ⟨(h + 1, size.toNat) :: (h, s.cfg.frameRecSize) :: s.heap.live, h + 2⟩
            bus := b }))

/-- The reading steps of a frame: the header's two words, the seven words of the addresses with the Ethertype's first
byte high, the payload word by word with an odd last byte, then the queue (44 R262, R265, R267, 30 R126, R127); and
the two endings: an Ethernet-I frame gives both allocations back with one diagnostic, and the advance stops the remote
DMA and writes the boundary one page below the new read position, without wrap correction (44 R268, R269). The page
selection, the commands and the remote read are those of 43 R220, R221 and 30 R125. With a handler registered a run
can be on in any `PHASE`, the model's reading (log 34); in those that are not at or after `NeInterruptsEnabled` the
tests of the length and the Ethertype answer as in the others, of which `RxTests` says it (44 R263, R266). A byte
count that wraps to 0 is refused (log 26, 93 U10); the handles and their return are log 23's and log 30's. Inferences
these rules mark as the spec's own: decisions D20, D23, D24, D25, D26, D27, D29; general knowledge in R220. -/
def Obligations.RxSteps : Prop :=
  ∀ s : State, RxReady s →
    let page : Half := s.nic.nextPkt ++ 0#8
    let m := s.cfg.num
    (s.wr.nextPkt = true →
      ∃ v w₀ w₁ t, PortsOnly (pageTrace s .p0 v ++ rdmaTrace s page 4 ++ fifoTrace s [w₀, w₁]) s t ∧
        exec .rxHdr s = .next { onPage .p0 t with
          rx := { t.rx with
            hdrStatus := w₀.extractLsb' 0 8
            hdrNext := w₀.extractLsb' 8 8
            hdrTotal := w₁ }
          wr := { t.wr with hdr := true } }) ∧
    (∀ f, s.wr.nextPkt = true → s.wr.hdr = true → s.rx.fr = some f →
      let count := BitVec.ofNat 16 (((s.rx.hdrTotal - 4).toNat + 1) / 2 * 2)
      (count ≠ 0 → ∃ v w₀ w₁ w₂ w₃ w₄ w₅ w₆ t,
        PortsOnly (pageTrace s .p0 v ++ rdmaTrace s (page + 4) count ++
          fifoTrace s [w₀, w₁, w₂, w₃, w₄, w₅, w₆]) s t ∧
        let lo (w : Half) : Byte := w.extractLsb' 0 8
        let hi (w : Half) : Byte := w.extractLsb' 8 8
        let e : EthHeader := ⟨⟨lo w₀, hi w₀, lo w₁, hi w₁, lo w₂, hi w₂⟩, ⟨lo w₃, hi w₃, lo w₄, hi w₄, lo w₅, hi w₅⟩,
          lo w₆ ++ hi w₆⟩
        exec .rxAddr s = .next { onPage .p0 t with
          rx := { t.rx with etype := e.ethertype, fr := some { f with eth := some e } }
          wr := { t.wr with etype := true } }) ∧
      (count = 0 → exec .rxAddr s = .refused .zeroCount)) ∧
    (∀ f e, s.rx.fr = some f → f.eth = some e →
      ∃ ws last t, ws.length = f.length.toNat / 2 ∧ last.length = f.length.toNat % 2 ∧
        PortsOnly (fifoTrace s ws ++ last.map (Event.rd8 (s.nic.iobase + m.neData))) s t ∧
        exec .rxPayload s = .next { t with
          q := t.q ++ [⟨f.record, f.buffer, e, f.length,
            (ws.flatMap fun w => [w.extractLsb' 0 8, w.extractLsb' 8 8]) ++ last⟩]
          rx := { t.rx with fr := none }
          wr := { t.wr with fr := true } }) ∧
    (∀ f, s.rx.fr = some f → s.wr.etype = true →
      ∃ b : Bus, b = { s.bus with trace := s.bus.trace ++ [.release f.buffer, .release f.record] } ∧
        exec .rxDrop s = .next { s with
          log := s.log ++ [.ethernetI s.rx.etype]
          rx := { s.rx with fr := none }
          wr := { s.wr with fr := true }
          heap := { s.heap with
            live := s.heap.live.filter fun p => decide (p.1 ≠ f.buffer) && decide (p.1 ≠ f.record) }
          bus := b }) ∧
    (s.wr.hdr = true →
      ∃ v t, PortsOnly ([neWr s m.neCr ((m.cmdNodma &&& cmdMask m) ||| shadowBits s)] ++ pageTrace s .p0 v ++
          [neWr s m.neBnry (s.rx.hdrNext - 1)]) s t ∧
        exec .rxAdvance s = .next { t with
          nic := { t.nic with nextPkt := s.rx.hdrNext, page := some .p0 }
          wr := { t.wr with nextPkt := true } }) ∧
    (s.phase.handlerLive = false →
      (s.wr.hdr = true → exec .rxRunt s = .next
        (if s.rx.hdrTotal.toNat < 64 then setResult (.bool true) { s with log := s.log ++ [.runt s.rx.hdrTotal] }
        else setResult (.bool false) s)) ∧
      (s.wr.etype = true → exec .rxClassify s =
        .next (setResult (if 0x0600 < s.rx.etype.toNat then .etherII else .etherI) s)))

/-- `RX.FRAME` is its parts in order, up to the result they leave: header, runt test, allocation, addresses,
classification, payload or drop, and always the advance (44 R270). `RX.FRAME` names no result, and what its parts
leave there is the model's (log 25); with a handler registered a run can be on in any `PHASE`, the model's reading
(log 34). -/
def Obligations.RxFrameSequence : Prop :=
  ∀ s : State, RxReady s → s.wr.nextPkt = true →
    ∃ t u a, exec .rxFrame s = .next t ∧ exec .rxHdr s = .next a ∧ setResult .unit t = setResult .unit u ∧
      ((a.rx.hdrTotal.toNat < 64 ∧ runInstrs [.rxHdr, .rxRunt, .rxAdvance] s = .next u) ∨
        (64 ≤ a.rx.hdrTotal.toNat ∧ ∃ b, runInstrs [.rxHdr, .rxRunt, .rxAlloc] s = .next b ∧
          ((b.result ≠ .ok ∧ runInstrs [.rxHdr, .rxRunt, .rxAlloc, .rxAdvance] s = .next u) ∨
            (b.result = .ok ∧ ∃ c, runInstrs [.rxHdr, .rxRunt, .rxAlloc, .rxAddr, .rxClassify] s = .next c ∧
              ((c.result = .etherII ∧
                  runInstrs [.rxHdr, .rxRunt, .rxAlloc, .rxAddr, .rxClassify, .rxPayload, .rxAdvance] s = .next u) ∨
                (c.result = .etherI ∧
                  runInstrs [.rxHdr, .rxRunt, .rxAlloc, .rxAddr, .rxClassify, .rxDrop, .rxAdvance] s =
                    .next u))))))

/-- The law of one iteration, tied to what it was answered: it enqueues one frame and logs nothing, exactly when the
length is at least 64, both allocations succeed and the Ethertype is above 0x0600; or it enqueues nothing, logs the
one diagnostic that says why (a runt, the refused request, Ethernet-I) and gives back whatever it allocated. The new
read position is the header's next page (44 R272, with the requests and diagnostics of R263, R264 and R268 and the
read position of R269). The handles are numbers from a counter (log 23) and the requests stand in the traffic (log
30). Inferences these rules mark as the spec's own: decisions D26, D29; derivations in R272. -/
def Obligations.RxFrameLaw : Prop :=
  ∀ s t : State, exec .rxFrame s = .next t → HeapInv s →
    let total := t.rx.hdrTotal
    let first (answer : Option Nat) : Nat × Option Nat := (s.cfg.frameRecSize, answer)
    let second (answer : Option Nat) : Nat × Option Nat := ((total - 18).toNat, answer)
    t.nic.nextPkt = t.rx.hdrNext ∧ t.rx.fr = (if total.toNat < 64 then s.rx.fr else none) ∧
    ∃ es, t.bus.trace = s.bus.trace ++ es ∧
      ((∃ f : Frame, t.q = s.q ++ [f] ∧ t.log = s.log ∧ 64 ≤ total.toNat ∧ 0x0600 < t.rx.etype.toNat ∧
          allocations es = [first (some f.record), second (some f.buffer)] ∧
          f.eth.ethertype = t.rx.etype ∧ f.length = total - 18 ∧ f.payload.length = f.length.toNat ∧
          f.record = s.heap.next ∧ f.buffer = s.heap.next + 1 ∧
          t.heap.live = (f.buffer, f.length.toNat) :: (f.record, s.cfg.frameRecSize) :: s.heap.live) ∨
        (t.q = s.q ∧ t.heap.live = s.heap.live ∧
          ((total.toNat < 64 ∧ allocations es = [] ∧ t.heap = s.heap ∧ t.log = s.log ++ [.runt total]) ∨
            (64 ≤ total.toNat ∧ allocations es = [first none] ∧ t.log = s.log ++ [.allocFrame]) ∨
            (64 ≤ total.toNat ∧ (∃ h, allocations es = [first (some h), second none]) ∧
              t.log = s.log ++ [.allocPayload (total - 18)]) ∨
            (64 ≤ total.toNat ∧ (∃ h b, allocations es = [first (some h), second (some b)]) ∧
              t.rx.etype.toNat ≤ 0x0600 ∧ t.log = s.log ++ [.ethernetI t.rx.etype]))))

/-! ### The queue -/

/-- `Q.ENQ` appends, `Q.DEQ` answers the head and removes it or answers `none`, `Q.SIZE` answers the length; each
keeps `IF` and changes nothing else (45 R281 to R283). That the frames handed out are kept in a list is the model's
(log 23), and so is that each runs in either context, `Q.ENQ` in the main one and `Q.DEQ` in the interrupt context too
(log 24). Inferences these rules mark as the spec's own: decisions D30. -/
def Obligations.QueueOps : Prop :=
  ∀ s : State,
    (∀ f, exec (.qEnq f) s = .next { s with q := s.q ++ [f] }) ∧
    (s.q = [] → exec .qDeq s = .next (setResult .noFrame s)) ∧
    (∀ f rest, s.q = f :: rest →
      exec .qDeq s = .next (setResult (.frame f) { s with q := rest, taken := s.taken ++ [f] })) ∧
    exec .qSize s = .next (setResult (.count s.q.length) s)

/-- The waiting and the guard: `Q.WAIT` answers the head, or halts and tries again; with `IF = 0` it is refused (93
U4). The boundary after its dequeue and the one before it halts may each start a handler run, which splits it; then
the rest goes on after the run (70 R335; log 10). The frame handed out is kept in a list, the model's (log 23).
`Q.GUARD` runs its body with `IF = 0` and gives `IF` its old value back after it (45 R280, R284). Inferences these
rules mark as the spec's own: decisions D30, D40. -/
def Obligations.QueueControl : Prop :=
  (∀ s : State, s.ctl.inIrq = false → s.fl.ifl = true →
    let got : List Val := [.unit, .unit, .bool true]
    let halt : List Task := [.waitHalt, .op .qWait]
    (∀ f rest, s.q = f :: rest →
      let u := deliver (setResult (.frame f) { s with q := rest, taken := s.taken ++ [f] })
      exec .qWait s = .next (if u.ctl.inIrq then suspendAs (.resume (.op .qWait) got) u else u)) ∧
    (s.q = [] →
      let u := deliver (setResult .noFrame s)
      let v := deliver u
      exec .qWait s = .next
        (if u.ctl.inIrq then suspendAs (.resume (.op .qWait) got) u
        else if v.ctl.inIrq then suspendAs (.resume (.op .qWait) (.bool true :: got)) v
        else push halt v)) ∧
    (∀ f, s.result = .frame f → runTask (.resume (.op .qWait) got) s = .next s) ∧
    (s.result = .noFrame → Quiet s → runTask (.resume (.op .qWait) got) s = .next (push halt s)) ∧
    runTask (.resume (.op .qWait) (.bool true :: got)) s = .next (push halt s) ∧
    runTask .waitHalt s = .next { s with fl := { s.fl with halted := true } }) ∧
  (∀ s : State, s.ctl.inIrq = false → s.fl.ifl = false → exec .qWait s = .refused .interruptsOff) ∧
  ∀ s : State,
    (∀ body, exec (.qGuard body) s = .next (push (body.map Task.line ++ [.restoreIf s.fl.ifl])
      { s with fl := { s.fl with ifl := false } })) ∧
    ∀ b, runTask (.restoreIf b) s = .next { s with fl := { s.fl with ifl := b } }

/-- The queue's law: a queue program always completes, and the frames handed out followed by the frames still queued
are the old ones followed by the frames enqueued, in order: nothing is lost, doubled or reordered (45 R286). The list
of the frames handed out is the model's (log 23), and so is that such a program runs in either context (log 24).
Inferences these rules mark as the spec's own: derivations in R286. -/
def Obligations.QueueLaw : Prop :=
  ∀ (ops : List QueueOp) (s : State), ∃ t, runInstrs (ops.map QueueOp.instr) s = .next t ∧
    t.taken ++ t.q = s.taken ++ s.q ++ enqueued ops ∧ s.taken <+: t.taken ∧
    t = { s with q := t.q, taken := t.taken, ctl := t.ctl }

/-! ### The interrupt -/

/-- Delivery at a boundary. A handler run starts only when a handler is registered, the line and `IF` let it through
and no run is on; then the line is masked, a halted main context is woken and suspended where it is, and `RX.IRQ`
starts, while `IF`, `PHASE`, the page and every register of the main context keep their values (60 R301, R302). When
the handler has nothing left to do its line is unmasked and the main context goes on where it was (60 R303). An
operation in the middle of which a run starts is split between two of its parts, and the rest of it waits (log 10): a
placed `NE.CURR.RD` goes on with the command byte it had read before the run (43 R220, R223); a DMA record stands with
its mask written and its information byte to come; a range record's first field leaves its logical device as it was,
because the new range counts when all its fields are written (41 R177, R178; where such a record's fields stand until
then is log 48's). That a run may start stops no operation: it completes in a state exactly when it does with the line
masked, where nothing splits it. When a run starts is left open: the model draws a number of boundaries to wait, and 0
starts it at this one (log 11). That the handler's own registers start unwritten is the model's (log 31). Inferences
these rules mark as the spec's own: decisions D11, D20, D35; general knowledge in R301, R220. -/
def Obligations.Interrupts : Prop :=
  (∀ s : State, ¬ (s.fl.handlerSet = true ∧ s.fl.lineMasked = false ∧ s.fl.ifl = true ∧ s.ctl.inIrq = false) →
    deliver s = s) ∧
  (∀ s : State, ∃ b : Bus, b.trace = s.bus.trace ∧ b.agents = s.bus.agents ∧
    (deliver s = { s with bus := b } ∨
      deliver s = { s with
        bus := b
        fl := { s.fl with lineMasked := true, halted := false }
        ctl := ⟨true, s.ctl.main, ⟨[.op .rxIrq], .unit⟩⟩
        rx := { s.rx with fr := none }
        wr := { s.wr with isrseen := false, hdr := false, etype := false, fr := false } })) ∧
  (∀ s : State, s.fl.handlerSet = true → s.fl.lineMasked = false → s.fl.ifl = true → s.ctl.inIrq = false →
    s.bus.countdown = none →
    (∀ rest, s.bus.lineAnswers = false :: rest → deliver s = { s with bus := { s.bus with lineAnswers := rest } }) ∧
    (∀ rest ds, s.bus.lineAnswers = true :: rest → s.bus.delays = 0 :: ds → (deliver s).ctl.inIrq = true)) ∧
  (∀ s : State, s.ctl.inIrq = true → s.ctl.irq.todo = [] →
    boundary s = deliver { s with
      fl := { s.fl with lineMasked := false }
      ctl := { s.ctl with inIrq := false } }) ∧
  (∀ s : State, (s.ctl.inIrq = false ∨ s.ctl.irq.todo ≠ []) → boundary s = deliver s) ∧
  (∀ (i : Instr) (s t : State), s.ctl.inIrq = false → exec i s = .next t → t.ctl.inIrq = true →
    ∃ got, SplitAt (.op i) got s t) ∧
  (∀ (i : Instr) (s : State), (∃ t, exec i s = .next t) ↔
    ∃ t, exec i { s with fl := { s.fl with lineMasked := true } } = .next t) ∧
  (∀ (a : Half) (as : List Half) (rest : List Bool) (ds : List Nat) (s : State), s.nic.bound = true → Open s →
    s.nic.page ≠ some .p1 → s.bus.answers = a :: as → s.bus.lineAnswers = false :: true :: rest →
    s.bus.delays = 0 :: ds →
    ∃ got t, exec .neCurrRd s = .next t ∧ SplitAt (.op .neCurrRd) got s t ∧ t.nic = s.nic ∧
      t.bus.trace = s.bus.trace ++ [.rd8 (s.nic.iobase + s.cfg.num.neCr) (a.setWidth 8)] ∧
      ∀ u : State, u.ctl.inIrq = false → Quiet u → u.cfg = s.cfg →
        ∃ v w, PortsOnly [neWr u s.cfg.num.neCr (pageCommand s.cfg.num (a.setWidth 8) .p1),
            .rd8 (u.nic.iobase + s.cfg.num.neCurr) v] u w ∧
          runTask (.resume (.op .neCurrRd) got) u = .next (setResult (.byte v) (onPage .p1 w))) ∧
  ∀ (d : Nat) (j : Fin 4) (body : List Byte) (rest : List Bool) (ds : List Nat) (s : State), Open s →
    s.iso.keySent = true → s.wr.curld = true → s.dec.card = some d → s.dec.curld = .index j → LdThere s d j →
    s.bus.lineAnswers = false :: false :: true :: rest → s.bus.delays = 0 :: ds →
    let b (i : Nat) : Byte := body.getD i 0
    let io (g : Byte) : IoRange := ⟨b 0, b 2 ++ b 1, b 4 ++ b 3, b 5, b 6, g, none⟩
    let resumes (u : State) : Prop := u.ctl.inIrq = false ∧ Quiet u ∧ u.cfg = s.cfg ∧ u.dec.card = some d
    ((s.ld d j).dma = none →
      ∃ got t v, exec (.recDma body) s = .next t ∧ SplitAt (.op (.recDma body)) got s t ∧
        t.dev = (modLd d j (fun l => { l with dma := some ⟨b 0, v⟩ }) s).dev ∧
        ∀ u, resumes u → runTask (.resume (.op (.recDma body)) got) u =
          .next (modLd d j (fun l => { l with dma := l.dma.map fun r => { r with info := b 1 } }) u)) ∧
    ((s.ld d j).io.length < 8 →
      ∃ got t, exec (.recIoport body) s = .next t ∧ SplitAt (.op (.recIoport body)) got s t ∧ t.dev = s.dev ∧
        t.dec = s.dec ∧
        ∀ u, resumes u → u.fresh = t.fresh → (u.ld d j).io.length < 8 →
          runTask (.resume (.op (.recIoport body)) got) u =
            .next (modLd d j (fun l => { l with io := l.io ++ [io u.dec.iocfg] })
              { u with fresh := none, dec := { u.dec with iocfg := u.dec.iocfg + u.cfg.cfgStep } }))

/-- A halted main context wakes when an interrupt is delivered, after any number of boundaries the request may wait,
as long as it stays asserted (60 R301, R302, R313). The waiting number is the model's way to leave the delay open (log
11). Inferences these rules mark as the spec's own: decisions D35; general knowledge in R301. -/
def Obligations.HaltWakes : Prop :=
  ∀ (n : Nat) (rest : List Bool) (ds : List Nat) (s : State), s.cfg.ok = true → s.fl.halted = true →
    s.ctl.inIrq = false → s.fl.handlerSet = true → s.fl.lineMasked = false → s.fl.ifl = true →
    s.bus.countdown = none → s.bus.lineAnswers = List.replicate (n + 1) true ++ rest → s.bus.delays = n :: ds →
    (∀ k ≤ n, ∃ u, Host.Core.run core k s = .next u ∧ u.fl.halted = true ∧ u.ctl = s.ctl ∧
      u.bus.trace = s.bus.trace) ∧
    ∃ t, Host.Core.run core (n + 1) s = .next t ∧ t.ctl.inIrq = true ∧ t.fl.halted = false ∧
      t.ctl.main = s.ctl.main ∧ t.ctl.irq.todo = [.op .rxIrq]

/-- What the handler leaves alone: an instruction that runs in the interrupt context changes nothing of the main
context, the isolation and decoder registers, the device table, the entry that is being filled (log 48) or `PHASE` (60
R302, 44 R272), and a receive operation accesses nothing but its NIC's window and the heap. Inferences these rules mark as the spec's own: derivations in
R272. -/
def Obligations.MainSuspended : Prop :=
  (∀ (i : Instr) (s t : State), s.ctl.inIrq = true → exec i s = .next t →
    t.ctl.inIrq = true ∧ t.ctl.main = s.ctl.main ∧ t.cfg = s.cfg ∧ t.iso = s.iso ∧ t.dec = s.dec ∧ t.dev = s.dev ∧
      t.fresh = s.fresh ∧ t.phase = s.phase ∧ t.fl.lineMasked = s.fl.lineMasked ∧ t.fl.handlerSet = s.fl.handlerSet ∧
      t.fl.halted = s.fl.halted) ∧
  (∀ (i : Instr) (s t : State), isReceive i = true → exec i s = .next t →
    ∃ es, t.bus.trace = s.bus.trace ++ es ∧ ∀ e ∈ es, nicEvent s.cfg.num s.nic.iobase e)

/-! ### The whole machine -/

/-- The preconditions every operation checks. Before the key an operation that touches a PnP port is refused (70 R324,
93 U1; that record headers and register rows are such operations is the model's reading, log 14, 16, 17). Each
operation runs only in its context (60 R308). An accessor, an initialisation step or a receive operation needs the
bound driver, and a receive operation a registered handler or a phase from which one can run (43 and 44, the lines
before R220 and R260; the order of the phases is the model's reading, log 34). -/
def Obligations.Preconditions : Prop :=
  ∀ (i : Instr) (s : State),
    (needsKey i = true → s.ctl.inIrq = false → s.iso.keySent = false → exec i s = .refused .keyNotSent) ∧
    (isReceive i = true → s.ctl.inIrq = false → exec i s = .refused .wrongContext) ∧
    (isMainOnly i = true → s.ctl.inIrq = true → exec i s = .refused .wrongContext) ∧
    (s.nic.bound = false →
      (isAccessor i = true ∨ (isInitStep i = true ∧ s.ctl.inIrq = false) ∨
        (isReceive i = true ∧ s.ctl.inIrq = true)) →
      exec i s = .refused .nicNotBound) ∧
    (isReceive i = true → s.ctl.inIrq = true → s.nic.bound = true → s.phase.handlerLive = false →
      s.fl.handlerSet = false → exec i s = .refused .badPhase)

/-- A read before the first write is a fault, never a value (10 R23, R51, 93 U3). What reads nothing needs nothing
written: `RD.BODY 0`, an end tag with checksum 0 (41 R172, R180), an `RX.ALLOC` whose record is refused, a header
whose length mismatch is fatal (44 R264, 41 R184; log 8). That record headers and register rows are instructions of
their own is the model's reading (log 14, 16), and the failure itself stands as the result of a fatal length (log 25).
An index that names no entry in use stops nothing: what such an entry holds is a free value, as `CFG.MATCH` on it
shows, and a write of it changes nothing of the table (log 18). `RX.ADDR` only writes `FR`, so it runs with `FR`
unwritten or `NONE`, and what it would put there is dropped (log 46). Nor does anything stop on `FR = NONE` once it is
written, or a record whose addresses were never read: what they hold is a free value, and the operation does the rest
(log 46). Inferences these rules mark as the spec's own: decisions D9, D10, D20, D25, D27, D29, D34. -/
def Obligations.NoInventedValues : Prop :=
  (∀ s : State, PnpReady s →
    let stops (r : Reg) (is : List Instr) : Prop := ∀ i ∈ is, exec i s = .fault (.readBeforeWrite r)
    let stream (len : BitVec 3) (len' : Half) : List Instr :=
      [.rdByte, .rdHeader, .rdBody len', .tagAnsi len'] ++
        (if s.cfg.memRecords = .storeRaw then [.tagMem len', .tagMem32 len'] else []) ++
        (if len = 0 then [] else [.tagVersion len, .tagLogdev len, .tagCompat len, .tagIrq len, .tagDma len,
          .tagIoport len, .tagEnd len])
    (s.wr.rdp = false →
      (∀ r f, stops .rdp [.pnpRd r, .idSample, .idRead, .isoRound f, .pnpRegSerialIsolation, .pnpRegResourceData,
        .pnpRegStatus]) ∧
      ∀ len len', len' ≠ 0 → stops .rdp (stream len len')) ∧
    (∀ len len', s.wr.rdp = true → s.wr.csum = false → len' ≠ 0 → stops .csum (stream len len')) ∧
    (s.wr.id = false → stops .id [.idDecode]) ∧
    (∀ b : List Byte, s.wr.csum = false → b.getD 0 0 ≠ 0#8 → stops .csum [.recEnd b]) ∧
    (s.wr.rdp = false → s.wr.csum = false →
      exec (.rdBody 0) s = .next (setResult (.body []) s) ∧
      ∀ b : List Byte, b.getD 0 0 = 0#8 → exec (.recEnd b) s = .next (setResult .pass s)) ∧
    (∀ (d : Nat) (b : List Byte), s.dec.card = some d → s.wr.curld = false →
      stops .curld [.recCompat b, .recIrq b, .recDma b, .recIoport b, .recAnsi b] ∧
      (s.cfg.memRecords = .storeRaw → stops .curld [.recMem b, .recMem32 b])) ∧
    (∀ (d : Nat) (len : BitVec 3) (len' : Half), s.dec.card = some d → s.wr.curld = false → s.wr.csum = true →
      s.wr.rdp = true →
      stops .curld [.tagAnsi len'] ∧
      (s.cfg.lenMismatchFatal = false → stops .curld [.tagCompat len, .tagIrq len, .tagDma len, .tagIoport len]) ∧
      stops .curld [.tagCompat 4, .tagIrq 2, .tagIrq 3, .tagDma 2, .tagIoport 7]) ∧
    (s.wr.rdp = false → s.wr.csum = false → s.wr.curld = false → s.cfg.lenMismatchFatal = true →
      let fatal (tag : Byte) : State :=
        raise (.lengthFatal tag 0) (setResult (.body []) { s with log := s.log ++ [.lengthMismatch tag 0] })
      exec (.tagVersion 0) s = .next (fatal s.cfg.num.tagVersion) ∧
      exec (.tagLogdev 0) s = .next (fatal s.cfg.num.tagLogdev) ∧
      exec (.tagCompat 0) s = .next (fatal s.cfg.num.tagCompat) ∧
      exec (.tagIrq 0) s = .next (fatal s.cfg.num.tagIrq) ∧
      exec (.tagDma 0) s = .next (fatal s.cfg.num.tagDma) ∧
      exec (.tagIoport 0) s = .next (fatal s.cfg.num.tagIoport))) ∧
  (∀ s : State, InitReady s → s.wr.prom = false → exec .neMac s = .fault (.readBeforeWrite .prom)) ∧
  (∀ s : State, RxReady s →
    let stops (r : Reg) (is : List Instr) : Prop := ∀ i ∈ is, exec i s = .fault (.readBeforeWrite r)
    (s.wr.nextPkt = false → stops .nextPkt [.rxIrq, .rxPending, .rxHdr, .rxAddr, .rxFrame]) ∧
    (s.wr.hdr = false →
      stops .hdr [.rxRunt, .rxAdvance] ∧
      ∀ rest, (s.bus.allocAnswers = true :: rest → stops .hdr [.rxAlloc]) ∧
        (s.bus.allocAnswers = false :: rest → ∃ t, exec .rxAlloc s = .next t ∧ t.log = s.log ++ [.allocFrame] ∧
          t.rx = { s.rx with fr := none } ∧ t.heap = s.heap)) ∧
    (s.wr.nextPkt = true → s.wr.hdr = false → stops .hdr [.rxAddr]) ∧
    (s.wr.nextPkt = true → s.wr.hdr = true → s.rx.fr = none → roundup2 (s.rx.hdrTotal - 4) ≠ 0 →
      ∃ t, exec .rxAddr s = .next t ∧ t.rx.fr = none ∧ t.wr.fr = s.wr.fr ∧ t.wr.etype = true ∧ t.q = s.q) ∧
    (s.wr.etype = false → stops .etype [.rxClassify]) ∧
    (s.wr.isrseen = false → stops .isrseen [.rxAck]) ∧
    (s.wr.fr = false → s.rx.fr = none → stops .fr [.rxPayload, .rxDrop]) ∧
    (∀ f, s.rx.fr = some f → s.wr.etype = false → stops .etype [.rxDrop]) ∧
    (s.rx.fr = none → s.wr.fr = true →
      (∃ t f, exec .rxPayload s = .next t ∧ t.rx.fr = none ∧ t.q = s.q ++ [f] ∧
        f.payload.length = f.length.toNat) ∧
      (s.wr.etype = true → ∃ t, exec .rxDrop s = .next t ∧ t.rx.fr = none ∧ t.q = s.q ∧
        t.log = s.log ++ [.ethernetI s.rx.etype])) ∧
    (∀ r, s.rx.fr = some r → r.eth = none → ∃ t f, exec .rxPayload s = .next t ∧ t.rx.fr = none ∧
      t.q = s.q ++ [f] ∧ f.record = r.record ∧ f.buffer = r.buffer ∧ f.length = r.length ∧
      f.payload.length = r.length.toNat)) ∧
  ∀ s : State, PnpReady s →
    let runs (i : Instr) : Prop := ∃ t, exec i s = .next t ∧ t.dev = s.dev
    (∀ i j : Byte, ¬ LdThere s i.toNat j.toNat →
      exec (.cfgMatch i j) s =
        .next (setResult (.bool (cfgMatch (Config.unusedLd s.bus.draws).clip)) (drawn s)) ∧
      ∀ x ∈ [Instr.cfgMatch i j, .cfgSelect i j, .cfgIrq i j, .cfgActivate i j, .cfgDevice i j], runs x) ∧
    (∀ i j k : Byte, (¬ LdThere s i.toNat j.toNat ∨ (s.ld i.toNat j.toNat).io.length ≤ k.toNat) →
      runs (.cfgIo i j k)) ∧
    ∀ (d : Nat) (b : List Byte), s.dec.card = some d → s.wr.curld = true →
      (s.dev.length ≤ d → ∀ x ∈ [Instr.recVersion b, .recLogdev b, .recAnsi b], runs x) ∧
      ((s.dev.length ≤ d ∨ ∃ j : Fin 4, s.dec.curld = .index j ∧ (s.device d).crd.lds.length ≤ j) →
        ∀ x ∈ [Instr.recCompat b, .recIrq b, .recDma b, .recIoport b, .recMem b, .recMem32 b], runs x)

/-- Which instruction may change what: `DEVCOUNT` only `ISO.ROUND`; the entry that is being filled only that and the
records that add one (log 48); the queue only the queue operations and the payload; the list of frames handed out (log
23) only `Q.DEQ` and `Q.WAIT`; `IF` only the guard; the key flag only the key; the binding only the binding; the
handler flags only the hook, but for a handler run that starts in the middle of the operation (log 10); `PHASE` only
the initialisation steps; the read port only its two setters, a row that sets it among them and `PNP.WR` not (log 16,
41); `LOG` and the traffic only grow (60 R299, 10 R30, R39). The statement is about `exec`: what `ISO.ENUM`,
`PNP.ENGINE`, a poll that did not end and the body of a guard still have to do, their writes of `PHASE`, `RDP` and
`IF` among it, are later steps of their own (10 R23, R26, 40 R156, R157; log 10, 12). Inferences these rules mark as
the spec's own: decisions D31, D34, D38; derivations in R299. -/
def Obligations.OnlyNamedOps : Prop :=
  ∀ (i : Instr) (s t : State), exec i s = .next t →
    (t.dev.length ≠ s.dev.length → ∃ f, i = .isoRound f) ∧
    (t.fresh ≠ s.fresh → addsEntry i = true) ∧
    (t.q ≠ s.q → i ∈ [Instr.qDeq, .qWait, .rxPayload, .rxFrame] ∨ ∃ f, i = .qEnq f) ∧
    (t.taken ≠ s.taken → i ∈ [Instr.qDeq, .qWait]) ∧
    (t.fl.ifl ≠ s.fl.ifl → ∃ b, i = .qGuard b) ∧
    (t.iso.keySent ≠ s.iso.keySent → i = .keySend) ∧
    (t.nic.bound ≠ s.nic.bound → i ∈ [Instr.neBind, .neInit]) ∧
    (t.fl.handlerSet ≠ s.fl.handlerSet → i = .neHook) ∧
    (t.ctl.inIrq = s.ctl.inIrq → t.fl.halted = s.fl.halted ∧ (t.fl.lineMasked ≠ s.fl.lineMasked → i = .neHook)) ∧
    (t.ctl.inIrq ≠ s.ctl.inIrq → s.ctl.inIrq = false ∧ t.fl.lineMasked = true ∧ t.fl.halted = false) ∧
    t.cfg = s.cfg ∧
    (t.phase ≠ s.phase → i ∈ [Instr.neReset, .neBasicinit, .neMac, .neRing, .neStart, .neHook, .neLbclr, .neInit]) ∧
    (t.iso.rdp ≠ s.iso.rdp ∨ t.wr.rdp ≠ s.wr.rdp → (∃ p, i = .pnpSetrdp p) ∨ ∃ v, i = .pnpRegSetRdData v) ∧
    (t.nic.prom ≠ s.nic.prom → i = .neProm) ∧
    (t.nic.nextPkt ≠ s.nic.nextPkt → i ∈ [Instr.neRing, .rxAdvance, .rxFrame]) ∧
    (t.heap ≠ s.heap → i ∈ [Instr.rxAlloc, .rxDrop, .rxFrame]) ∧
    (∃ l, t.log = s.log ++ l) ∧ ∃ es, t.bus.trace = s.bus.trace ++ es

/-- No instruction stores to card memory: with nothing arriving on the wire, every byte of every NIC's memory reads
after it as before (20 R74: only the NIC writes it). The memory is that of the optional reference NICs (log 5), on
which a write of the data port does nothing (log 29). -/
def Obligations.CardMemoryReadOnly : Prop :=
  ∀ (i : Instr) (s t : State), exec i s = .next t → QuietWire s →
    QuietWire t ∧ ∀ n a, cardByte t n a = cardByte s n a

/-- Every step keeps the device table within its capacities, its CSNs in order (00 R8, 10 R24, R31 to R33, 30 R107),
and an entry that is being filled one that keeps them when it is counted (log 48). Inferences these rules mark as the
spec's own: decisions D6; general knowledge in R32, R33. -/
def Obligations.StepKeepsTable : Prop :=
  ∀ s t : State, TableInv s → step s = .next t → TableInv t

/-- Every step keeps the handler from nesting and its line masked, the read port a candidate, `BITCNT` at most 72, 32
`PROM` bytes and the queue handle of a bound driver (60 R302, R304, R306, 10 R22, R23, R28). What the rest of a split
step may rely on is part of it (log 10). Inferences these rules mark as the spec's own: decisions D20, D34. -/
def Obligations.StepKeepsControl : Prop :=
  ∀ s t : State, ContextInv s → RegisterInv s → SplitInv s → step s = .next t →
    ContextInv t ∧ RegisterInv t ∧ SplitInv t

/-- Every step keeps the heap's live handles distinct, and older than the next one, and every byte memory in canonical
form (20 R75: an allocation is live until it is released). That handles are numbers from a counter (log 23) and that
the memories are those of the optional reference agents (log 5) is the model's. -/
def Obligations.StepKeepsMemory : Prop :=
  ∀ s t : State, HeapInv s → MemoryInv s → step s = .next t → HeapInv t ∧ MemoryInv t

/-- Every invariant holds after reset (10 R51). There are no reference agents then (log 5), and `BITCNT` and `PROM`
hold the model's values (log 6). Inferences these rules mark as the spec's own: decisions D20, D34. -/
def Obligations.ResetInvariants : Prop :=
  EngineInv State.reset ∧ MemoryInv State.reset ∧ QuietWire State.reset

/-- The reference agents: a card hears the key and sleeps; a wrong byte starts it again, at its second byte if the
wrong one is the seed; a command byte with `RD` = `001` loads the remote address and count and starts a remote read,
`1xx` ends it, any other leaves it; a FIFO read with no remote read or no bytes left answers the free value and
changes nothing; a FIFO word with bytes left is the two bytes at the remote address, the lower in bits [7:0], and
moves the count down and the address up, from the end of the ring to its start; the request line is an unmasked status
bit (95 sections 2.1 and 2.2, 10 R44, 20 R76, R78, R88, 60 R301; one instance of the environment only, log 5). What a
FIFO read with no remote read leaves is log 29's. The spec speaks of one NIC; that with several the request of any
drives the line is the model's choice (log 40). Inferences these rules mark as the spec's own: decisions D3, D4, D5,
D15, D19, D24, D27, D35; general knowledge in R44, R78, R301, R76. -/
def Obligations.ReferenceAgents : Prop :=
  (∀ c : Card, c.cstate = .waitForKey → c.keypos = 0 →
    ((List.range 32).map keyByte).foldl (fun c v => c.onAddress v) c = { c with cstate := .sleep, keypos := 32 }) ∧
  (∀ (c : Card) (v : Byte), c.cstate = .waitForKey → v ≠ keyByte c.keypos →
    c.onAddress v = { c with keypos := if v = 0x6A then 1 else 0 }) ∧
  (∀ (m : Numbers) (v : Byte) (n : Nic),
    let t := n.command m v
    let rd := (v >>> m.crRd) &&& 7
    t.cr = v ∧ t.mem = n.mem ∧
    (rd = 1 → t.remote = true ∧ t.crda = n.rsar ∧ t.rbc = n.rbcr) ∧
    (rd ≠ 1 → t.crda = n.crda ∧ t.rbc = n.rbc ∧ t.remote = (n.remote && decide (rd &&& 4 = 0)))) ∧
  (∀ (m : Numbers) (n : Nic) (free : Half), n.remote = false ∨ n.rbc = 0 →
    n.fifo16 m free = (free, n) ∧ n.fifo8 m free = (free.setWidth 8, n)) ∧
  (∀ (m : Numbers) (n : Nic) (free : Half), n.remote = true → n.rbc ≠ 0 →
    let r := n.fifo16 m free
    r.1 = Memory.read n.mem (n.crda + 1).toNat ++ Memory.read n.mem n.crda.toNat ∧
    r.2.crda = (if n.crda + 2 = n.pstop ++ 0#8 then n.pstart ++ 0#8 else n.crda + 2) ∧
    r.2.rbc = n.rbc - 2 ∧ r.2.mem = n.mem ∧
    r.2.isr = (if n.rbc = 2 then n.isr ||| (1 <<< m.isrRdc) else n.isr)) ∧
  (∀ (m : Numbers) (g : Agents), g.request m = true ↔
    ∃ n ∈ g.nics, n.isr &&& n.imr &&& ~~~((1 : Byte) <<< m.isrRst) ≠ 0)

end
end

