-- ==== Sys2Proof/Laws/Memory.lean ====
section
/-! SUPPORT. The laws of byte memory: a read after a write, and the canonical form. -/

namespace Sys2Proof.Machine

/-- A read of the address written gives the value written; every other address reads as before. -/
theorem memory_read_write (m : List Host.Cell) (a b : Nat) (v : Byte) (h : Memory.wf m = true) :
    Memory.read (Memory.write m a v) b = if b = a then v else Memory.read m b := by
  induction m with
  | nil =>
    unfold Memory.write
    by_cases hv : v = Memory.unlisted
    · simp [hv, Memory.read]
    · simp only [hv, if_false, Memory.read]
  | cons c m ih =>
    obtain ⟨k, w⟩ := c
    simp only [Memory.wf, Bool.and_eq_true, decide_eq_true_eq, List.all_eq_true] at h
    have absent : ∀ {x : Nat} {m' : List Host.Cell}, (∀ c ∈ m', x < c.1) → Memory.read m' x = Memory.unlisted := by
      intro x m' hx
      induction m' with
      | nil => rfl
      | cons c m' ih' =>
        have := hx c (by simp)
        simp only [Memory.read]
        rw [if_neg (by omega), ih' (fun d hd => hx d (by simp [hd]))]
    unfold Memory.write
    by_cases h1 : a < k
    · have hr : Memory.read ((k, w) :: m) a = Memory.unlisted := by
        apply absent
        intro c hc
        rcases List.mem_cons.1 hc with rfl | hc
        · exact h1
        · have := h.1.2 c hc; omega
      by_cases hv : v = Memory.unlisted
      · simp only [h1, hv, if_true]
        by_cases hb : b = a
        · rw [if_pos hb, hb, hr]
        · rw [if_neg hb]
      · simp only [h1, hv, if_true, if_false]
        rw [show Memory.read ((a, v) :: (k, w) :: m) b
          = if b = a then v else Memory.read ((k, w) :: m) b from rfl]
    · by_cases h2 : a = k
      · subst h2
        by_cases hv : v = Memory.unlisted
        · simp only [hv, if_true, lt_irrefl, if_false, Memory.read]
          by_cases hb : b = a
          · rw [if_pos hb, hb, absent h.1.2]
          · simp [hb]
        · simp only [hv, if_true, lt_irrefl, if_false, Memory.read]
          by_cases hb : b = a <;> simp [hb]
      · simp only [h1, h2, if_false, Memory.read]
        by_cases hb : b = k
        · have : ¬ b = a := by omega
          simp [hb, Ne.symm h2]
        · simp only [hb, if_false]
          exact ih h.2

/-- A write keeps a lower bound on the addresses. -/
theorem memory_write_above {m : List Host.Cell} {x a : Nat} {v : Byte} (ha : x < a) (h : ∀ c ∈ m, x < c.1) :
    ∀ c ∈ Memory.write m a v, x < c.1 := by
  induction m with
  | nil =>
    intro c hc
    unfold Memory.write at hc
    split at hc <;> simp at hc
    rw [hc]; exact ha
  | cons d m ih =>
    intro c hc
    have hd := h d (by simp)
    have hm : ∀ c ∈ m, x < c.1 := fun c hc => h c (by simp [hc])
    unfold Memory.write at hc
    split at hc
    · split at hc
      · exact h c hc
      · rcases List.mem_cons.1 hc with rfl | hc
        · exact ha
        · exact h c hc
    · split at hc
      · split at hc
        · exact hm c hc
        · rcases List.mem_cons.1 hc with rfl | hc
          · exact ha
          · exact hm c hc
      · rcases List.mem_cons.1 hc with rfl | hc
        · exact hd
        · exact ih hm c hc

/-- A write keeps the canonical form. -/
theorem memory_write_wf {m : List Host.Cell} (a : Nat) (v : Byte) (h : Memory.wf m = true) :
    Memory.wf (Memory.write m a v) = true := by
  induction m with
  | nil =>
    unfold Memory.write
    split
    · rfl
    · rename_i hv; simp [Memory.wf, hv]
  | cons c m ih =>
    obtain ⟨k, w⟩ := c
    have hw := h
    simp only [Memory.wf, Bool.and_eq_true, decide_eq_true_eq, List.all_eq_true] at h
    unfold Memory.write
    split
    · rename_i h1
      split
      · exact hw
      · rename_i hv
        simp only [Memory.wf, Bool.and_eq_true, decide_eq_true_eq, List.all_eq_true]
        refine ⟨⟨hv, ?_⟩, h⟩
        intro c hc
        rcases List.mem_cons.1 hc with rfl | hc
        · exact h1
        · exact lt_trans h1 (h.1.2 c hc)
    · split
      · rename_i h2
        split
        · exact h.2
        · rename_i hv
          simp only [Memory.wf, Bool.and_eq_true, decide_eq_true_eq, List.all_eq_true]
          subst h2
          exact ⟨⟨hv, h.1.2⟩, h.2⟩
      · rename_i h1 h2
        simp only [Memory.wf, Bool.and_eq_true, decide_eq_true_eq, List.all_eq_true]
        exact ⟨⟨h.1.1, memory_write_above (by omega) h.1.2⟩, ih h.2⟩

/-- Storing a frame into the ring keeps the canonical form. -/
theorem ringStore_wf (n : Nic) (bs : List Byte) (a : Half) {m : List Host.Cell} (h : Memory.wf m = true) :
    Memory.wf (ringStore n bs a m) = true := by
  induction bs generalizing a m with
  | nil => exact h
  | cons b bs ih => exact ih _ (memory_write_wf _ _ h)

/-- Memory at reset: there is none to list. -/
theorem reset_memoryInv : MemoryInv State.reset := by
  intro g h; exact nomatch h

end Sys2Proof.Machine
end

