-- ==== Sys2Proof/Laws/State.lean ====
section
/-! SUPPORT. One lemma per field that an update leaves alone, and the value of each field it writes, so that no proof
unfolds a record update. -/

namespace Sys2Proof.Machine

variable (s : State)

@[simp] theorem setActive_cfg (c : Ctx) : (State.setActive c s).cfg = s.cfg := rfl
@[simp] theorem setActive_iso (c : Ctx) : (State.setActive c s).iso = s.iso := rfl
@[simp] theorem setActive_dec (c : Ctx) : (State.setActive c s).dec = s.dec := rfl
@[simp] theorem setActive_dev (c : Ctx) : (State.setActive c s).dev = s.dev := rfl
@[simp] theorem setActive_fresh (c : Ctx) : (State.setActive c s).fresh = s.fresh := rfl
@[simp] theorem setActive_nic (c : Ctx) : (State.setActive c s).nic = s.nic := rfl
@[simp] theorem setActive_phase (c : Ctx) : (State.setActive c s).phase = s.phase := rfl
@[simp] theorem setActive_rx (c : Ctx) : (State.setActive c s).rx = s.rx := rfl
@[simp] theorem setActive_fl (c : Ctx) : (State.setActive c s).fl = s.fl := rfl
@[simp] theorem setActive_q (c : Ctx) : (State.setActive c s).q = s.q := rfl
@[simp] theorem setActive_taken (c : Ctx) : (State.setActive c s).taken = s.taken := rfl
@[simp] theorem setActive_log (c : Ctx) : (State.setActive c s).log = s.log := rfl
@[simp] theorem setActive_wr (c : Ctx) : (State.setActive c s).wr = s.wr := rfl
@[simp] theorem setActive_heap (c : Ctx) : (State.setActive c s).heap = s.heap := rfl
@[simp] theorem setActive_bus (c : Ctx) : (State.setActive c s).bus = s.bus := rfl

@[simp] theorem setResult_cfg (r : Result) : (setResult r s).cfg = s.cfg := rfl
@[simp] theorem setResult_iso (r : Result) : (setResult r s).iso = s.iso := rfl
@[simp] theorem setResult_dec (r : Result) : (setResult r s).dec = s.dec := rfl
@[simp] theorem setResult_dev (r : Result) : (setResult r s).dev = s.dev := rfl
@[simp] theorem setResult_fresh (r : Result) : (setResult r s).fresh = s.fresh := rfl
@[simp] theorem setResult_nic (r : Result) : (setResult r s).nic = s.nic := rfl
@[simp] theorem setResult_phase (r : Result) : (setResult r s).phase = s.phase := rfl
@[simp] theorem setResult_rx (r : Result) : (setResult r s).rx = s.rx := rfl
@[simp] theorem setResult_fl (r : Result) : (setResult r s).fl = s.fl := rfl
@[simp] theorem setResult_q (r : Result) : (setResult r s).q = s.q := rfl
@[simp] theorem setResult_taken (r : Result) : (setResult r s).taken = s.taken := rfl
@[simp] theorem setResult_log (r : Result) : (setResult r s).log = s.log := rfl
@[simp] theorem setResult_wr (r : Result) : (setResult r s).wr = s.wr := rfl
@[simp] theorem setResult_heap (r : Result) : (setResult r s).heap = s.heap := rfl
@[simp] theorem setResult_bus (r : Result) : (setResult r s).bus = s.bus := rfl

@[simp] theorem push_cfg (ts : List Task) : (push ts s).cfg = s.cfg := rfl
@[simp] theorem push_iso (ts : List Task) : (push ts s).iso = s.iso := rfl
@[simp] theorem push_dec (ts : List Task) : (push ts s).dec = s.dec := rfl
@[simp] theorem push_dev (ts : List Task) : (push ts s).dev = s.dev := rfl
@[simp] theorem push_fresh (ts : List Task) : (push ts s).fresh = s.fresh := rfl
@[simp] theorem push_nic (ts : List Task) : (push ts s).nic = s.nic := rfl
@[simp] theorem push_phase (ts : List Task) : (push ts s).phase = s.phase := rfl
@[simp] theorem push_rx (ts : List Task) : (push ts s).rx = s.rx := rfl
@[simp] theorem push_fl (ts : List Task) : (push ts s).fl = s.fl := rfl
@[simp] theorem push_q (ts : List Task) : (push ts s).q = s.q := rfl
@[simp] theorem push_taken (ts : List Task) : (push ts s).taken = s.taken := rfl
@[simp] theorem push_log (ts : List Task) : (push ts s).log = s.log := rfl
@[simp] theorem push_wr (ts : List Task) : (push ts s).wr = s.wr := rfl
@[simp] theorem push_heap (ts : List Task) : (push ts s).heap = s.heap := rfl
@[simp] theorem push_bus (ts : List Task) : (push ts s).bus = s.bus := rfl

@[simp] theorem setTodo_cfg (ts : List Task) : (setTodo ts s).cfg = s.cfg := rfl
@[simp] theorem setTodo_iso (ts : List Task) : (setTodo ts s).iso = s.iso := rfl
@[simp] theorem setTodo_dec (ts : List Task) : (setTodo ts s).dec = s.dec := rfl
@[simp] theorem setTodo_dev (ts : List Task) : (setTodo ts s).dev = s.dev := rfl
@[simp] theorem setTodo_fresh (ts : List Task) : (setTodo ts s).fresh = s.fresh := rfl
@[simp] theorem setTodo_nic (ts : List Task) : (setTodo ts s).nic = s.nic := rfl
@[simp] theorem setTodo_phase (ts : List Task) : (setTodo ts s).phase = s.phase := rfl
@[simp] theorem setTodo_rx (ts : List Task) : (setTodo ts s).rx = s.rx := rfl
@[simp] theorem setTodo_fl (ts : List Task) : (setTodo ts s).fl = s.fl := rfl
@[simp] theorem setTodo_q (ts : List Task) : (setTodo ts s).q = s.q := rfl
@[simp] theorem setTodo_taken (ts : List Task) : (setTodo ts s).taken = s.taken := rfl
@[simp] theorem setTodo_log (ts : List Task) : (setTodo ts s).log = s.log := rfl
@[simp] theorem setTodo_wr (ts : List Task) : (setTodo ts s).wr = s.wr := rfl
@[simp] theorem setTodo_heap (ts : List Task) : (setTodo ts s).heap = s.heap := rfl
@[simp] theorem setTodo_bus (ts : List Task) : (setTodo ts s).bus = s.bus := rfl

@[simp] theorem setPhase_cfg (p : Phase) : (setPhase p s).cfg = s.cfg := rfl
@[simp] theorem setPhase_iso (p : Phase) : (setPhase p s).iso = s.iso := rfl
@[simp] theorem setPhase_dec (p : Phase) : (setPhase p s).dec = s.dec := rfl
@[simp] theorem setPhase_dev (p : Phase) : (setPhase p s).dev = s.dev := rfl
@[simp] theorem setPhase_fresh (p : Phase) : (setPhase p s).fresh = s.fresh := rfl
@[simp] theorem setPhase_nic (p : Phase) : (setPhase p s).nic = s.nic := rfl
@[simp] theorem setPhase_rx (p : Phase) : (setPhase p s).rx = s.rx := rfl
@[simp] theorem setPhase_fl (p : Phase) : (setPhase p s).fl = s.fl := rfl
@[simp] theorem setPhase_q (p : Phase) : (setPhase p s).q = s.q := rfl
@[simp] theorem setPhase_taken (p : Phase) : (setPhase p s).taken = s.taken := rfl
@[simp] theorem setPhase_log (p : Phase) : (setPhase p s).log = s.log := rfl
@[simp] theorem setPhase_wr (p : Phase) : (setPhase p s).wr = s.wr := rfl
@[simp] theorem setPhase_ctl (p : Phase) : (setPhase p s).ctl = s.ctl := rfl
@[simp] theorem setPhase_heap (p : Phase) : (setPhase p s).heap = s.heap := rfl
@[simp] theorem setPhase_bus (p : Phase) : (setPhase p s).bus = s.bus := rfl

@[simp] theorem logFailure_cfg (f : Failure) : (logFailure f s).cfg = s.cfg := rfl
@[simp] theorem logFailure_iso (f : Failure) : (logFailure f s).iso = s.iso := rfl
@[simp] theorem logFailure_dec (f : Failure) : (logFailure f s).dec = s.dec := rfl
@[simp] theorem logFailure_dev (f : Failure) : (logFailure f s).dev = s.dev := rfl
@[simp] theorem logFailure_fresh (f : Failure) : (logFailure f s).fresh = s.fresh := rfl
@[simp] theorem logFailure_nic (f : Failure) : (logFailure f s).nic = s.nic := rfl
@[simp] theorem logFailure_phase (f : Failure) : (logFailure f s).phase = s.phase := rfl
@[simp] theorem logFailure_rx (f : Failure) : (logFailure f s).rx = s.rx := rfl
@[simp] theorem logFailure_fl (f : Failure) : (logFailure f s).fl = s.fl := rfl
@[simp] theorem logFailure_q (f : Failure) : (logFailure f s).q = s.q := rfl
@[simp] theorem logFailure_taken (f : Failure) : (logFailure f s).taken = s.taken := rfl
@[simp] theorem logFailure_wr (f : Failure) : (logFailure f s).wr = s.wr := rfl
@[simp] theorem logFailure_ctl (f : Failure) : (logFailure f s).ctl = s.ctl := rfl
@[simp] theorem logFailure_heap (f : Failure) : (logFailure f s).heap = s.heap := rfl
@[simp] theorem logFailure_bus (f : Failure) : (logFailure f s).bus = s.bus := rfl

@[simp] theorem raise_cfg (f : Failure) : (raise f s).cfg = s.cfg := by
  unfold raise; try dsimp only
  split <;> rfl
@[simp] theorem raise_iso (f : Failure) : (raise f s).iso = s.iso := by
  unfold raise; try dsimp only
  split <;> rfl
@[simp] theorem raise_dec (f : Failure) : (raise f s).dec = s.dec := by
  unfold raise; try dsimp only
  split <;> rfl
@[simp] theorem raise_dev (f : Failure) : (raise f s).dev = s.dev := by
  unfold raise; try dsimp only
  split <;> rfl
@[simp] theorem raise_fresh (f : Failure) : (raise f s).fresh = s.fresh := by
  unfold raise; try dsimp only
  split <;> rfl
@[simp] theorem raise_nic (f : Failure) : (raise f s).nic = s.nic := by
  unfold raise; try dsimp only
  split <;> rfl
@[simp] theorem raise_phase (f : Failure) : (raise f s).phase = s.phase := by
  unfold raise; try dsimp only
  split <;> rfl
@[simp] theorem raise_rx (f : Failure) : (raise f s).rx = s.rx := by
  unfold raise; try dsimp only
  split <;> rfl
@[simp] theorem raise_fl (f : Failure) : (raise f s).fl = s.fl := by
  unfold raise; try dsimp only
  split <;> rfl
@[simp] theorem raise_q (f : Failure) : (raise f s).q = s.q := by
  unfold raise; try dsimp only
  split <;> rfl
@[simp] theorem raise_taken (f : Failure) : (raise f s).taken = s.taken := by
  unfold raise; try dsimp only
  split <;> rfl
@[simp] theorem raise_wr (f : Failure) : (raise f s).wr = s.wr := by
  unfold raise; try dsimp only
  split <;> rfl
@[simp] theorem raise_heap (f : Failure) : (raise f s).heap = s.heap := by
  unfold raise; try dsimp only
  split <;> rfl
@[simp] theorem raise_bus (f : Failure) : (raise f s).bus = s.bus := by
  unfold raise; try dsimp only
  split <;> rfl

@[simp] theorem setIf_cfg (b : Bool) : (setIf b s).cfg = s.cfg := rfl
@[simp] theorem setIf_iso (b : Bool) : (setIf b s).iso = s.iso := rfl
@[simp] theorem setIf_dec (b : Bool) : (setIf b s).dec = s.dec := rfl
@[simp] theorem setIf_dev (b : Bool) : (setIf b s).dev = s.dev := rfl
@[simp] theorem setIf_fresh (b : Bool) : (setIf b s).fresh = s.fresh := rfl
@[simp] theorem setIf_nic (b : Bool) : (setIf b s).nic = s.nic := rfl
@[simp] theorem setIf_phase (b : Bool) : (setIf b s).phase = s.phase := rfl
@[simp] theorem setIf_rx (b : Bool) : (setIf b s).rx = s.rx := rfl
@[simp] theorem setIf_q (b : Bool) : (setIf b s).q = s.q := rfl
@[simp] theorem setIf_taken (b : Bool) : (setIf b s).taken = s.taken := rfl
@[simp] theorem setIf_log (b : Bool) : (setIf b s).log = s.log := rfl
@[simp] theorem setIf_wr (b : Bool) : (setIf b s).wr = s.wr := rfl
@[simp] theorem setIf_ctl (b : Bool) : (setIf b s).ctl = s.ctl := rfl
@[simp] theorem setIf_heap (b : Bool) : (setIf b s).heap = s.heap := rfl
@[simp] theorem setIf_bus (b : Bool) : (setIf b s).bus = s.bus := rfl

@[simp] theorem setLineMasked_cfg (b : Bool) : (setLineMasked b s).cfg = s.cfg := rfl
@[simp] theorem setLineMasked_iso (b : Bool) : (setLineMasked b s).iso = s.iso := rfl
@[simp] theorem setLineMasked_dec (b : Bool) : (setLineMasked b s).dec = s.dec := rfl
@[simp] theorem setLineMasked_dev (b : Bool) : (setLineMasked b s).dev = s.dev := rfl
@[simp] theorem setLineMasked_fresh (b : Bool) : (setLineMasked b s).fresh = s.fresh := rfl
@[simp] theorem setLineMasked_nic (b : Bool) : (setLineMasked b s).nic = s.nic := rfl
@[simp] theorem setLineMasked_phase (b : Bool) : (setLineMasked b s).phase = s.phase := rfl
@[simp] theorem setLineMasked_rx (b : Bool) : (setLineMasked b s).rx = s.rx := rfl
@[simp] theorem setLineMasked_q (b : Bool) : (setLineMasked b s).q = s.q := rfl
@[simp] theorem setLineMasked_taken (b : Bool) : (setLineMasked b s).taken = s.taken := rfl
@[simp] theorem setLineMasked_log (b : Bool) : (setLineMasked b s).log = s.log := rfl
@[simp] theorem setLineMasked_wr (b : Bool) : (setLineMasked b s).wr = s.wr := rfl
@[simp] theorem setLineMasked_ctl (b : Bool) : (setLineMasked b s).ctl = s.ctl := rfl
@[simp] theorem setLineMasked_heap (b : Bool) : (setLineMasked b s).heap = s.heap := rfl
@[simp] theorem setLineMasked_bus (b : Bool) : (setLineMasked b s).bus = s.bus := rfl

@[simp] theorem setHandler_cfg : (setHandler s).cfg = s.cfg := rfl
@[simp] theorem setHandler_iso : (setHandler s).iso = s.iso := rfl
@[simp] theorem setHandler_dec : (setHandler s).dec = s.dec := rfl
@[simp] theorem setHandler_dev : (setHandler s).dev = s.dev := rfl
@[simp] theorem setHandler_fresh : (setHandler s).fresh = s.fresh := rfl
@[simp] theorem setHandler_nic : (setHandler s).nic = s.nic := rfl
@[simp] theorem setHandler_phase : (setHandler s).phase = s.phase := rfl
@[simp] theorem setHandler_rx : (setHandler s).rx = s.rx := rfl
@[simp] theorem setHandler_q : (setHandler s).q = s.q := rfl
@[simp] theorem setHandler_taken : (setHandler s).taken = s.taken := rfl
@[simp] theorem setHandler_log : (setHandler s).log = s.log := rfl
@[simp] theorem setHandler_wr : (setHandler s).wr = s.wr := rfl
@[simp] theorem setHandler_ctl : (setHandler s).ctl = s.ctl := rfl
@[simp] theorem setHandler_heap : (setHandler s).heap = s.heap := rfl
@[simp] theorem setHandler_bus : (setHandler s).bus = s.bus := rfl

@[simp] theorem setHalted_cfg (b : Bool) : (setHalted b s).cfg = s.cfg := rfl
@[simp] theorem setHalted_iso (b : Bool) : (setHalted b s).iso = s.iso := rfl
@[simp] theorem setHalted_dec (b : Bool) : (setHalted b s).dec = s.dec := rfl
@[simp] theorem setHalted_dev (b : Bool) : (setHalted b s).dev = s.dev := rfl
@[simp] theorem setHalted_fresh (b : Bool) : (setHalted b s).fresh = s.fresh := rfl
@[simp] theorem setHalted_nic (b : Bool) : (setHalted b s).nic = s.nic := rfl
@[simp] theorem setHalted_phase (b : Bool) : (setHalted b s).phase = s.phase := rfl
@[simp] theorem setHalted_rx (b : Bool) : (setHalted b s).rx = s.rx := rfl
@[simp] theorem setHalted_q (b : Bool) : (setHalted b s).q = s.q := rfl
@[simp] theorem setHalted_taken (b : Bool) : (setHalted b s).taken = s.taken := rfl
@[simp] theorem setHalted_log (b : Bool) : (setHalted b s).log = s.log := rfl
@[simp] theorem setHalted_wr (b : Bool) : (setHalted b s).wr = s.wr := rfl
@[simp] theorem setHalted_ctl (b : Bool) : (setHalted b s).ctl = s.ctl := rfl
@[simp] theorem setHalted_heap (b : Bool) : (setHalted b s).heap = s.heap := rfl
@[simp] theorem setHalted_bus (b : Bool) : (setHalted b s).bus = s.bus := rfl

@[simp] theorem setKeySent_cfg : (setKeySent s).cfg = s.cfg := rfl
@[simp] theorem setKeySent_dec : (setKeySent s).dec = s.dec := rfl
@[simp] theorem setKeySent_dev : (setKeySent s).dev = s.dev := rfl
@[simp] theorem setKeySent_fresh : (setKeySent s).fresh = s.fresh := rfl
@[simp] theorem setKeySent_nic : (setKeySent s).nic = s.nic := rfl
@[simp] theorem setKeySent_phase : (setKeySent s).phase = s.phase := rfl
@[simp] theorem setKeySent_rx : (setKeySent s).rx = s.rx := rfl
@[simp] theorem setKeySent_fl : (setKeySent s).fl = s.fl := rfl
@[simp] theorem setKeySent_q : (setKeySent s).q = s.q := rfl
@[simp] theorem setKeySent_taken : (setKeySent s).taken = s.taken := rfl
@[simp] theorem setKeySent_log : (setKeySent s).log = s.log := rfl
@[simp] theorem setKeySent_wr : (setKeySent s).wr = s.wr := rfl
@[simp] theorem setKeySent_ctl : (setKeySent s).ctl = s.ctl := rfl
@[simp] theorem setKeySent_heap : (setKeySent s).heap = s.heap := rfl
@[simp] theorem setKeySent_bus : (setKeySent s).bus = s.bus := rfl

@[simp] theorem setBound_cfg : (setBound s).cfg = s.cfg := rfl
@[simp] theorem setBound_iso : (setBound s).iso = s.iso := rfl
@[simp] theorem setBound_dec : (setBound s).dec = s.dec := rfl
@[simp] theorem setBound_dev : (setBound s).dev = s.dev := rfl
@[simp] theorem setBound_fresh : (setBound s).fresh = s.fresh := rfl
@[simp] theorem setBound_phase : (setBound s).phase = s.phase := rfl
@[simp] theorem setBound_rx : (setBound s).rx = s.rx := rfl
@[simp] theorem setBound_fl : (setBound s).fl = s.fl := rfl
@[simp] theorem setBound_q : (setBound s).q = s.q := rfl
@[simp] theorem setBound_taken : (setBound s).taken = s.taken := rfl
@[simp] theorem setBound_log : (setBound s).log = s.log := rfl
@[simp] theorem setBound_wr : (setBound s).wr = s.wr := rfl
@[simp] theorem setBound_ctl : (setBound s).ctl = s.ctl := rfl
@[simp] theorem setBound_heap : (setBound s).heap = s.heap := rfl
@[simp] theorem setBound_bus : (setBound s).bus = s.bus := rfl

@[simp] theorem setLfsr_cfg (v : Byte) : (setLfsr v s).cfg = s.cfg := rfl
@[simp] theorem setLfsr_dec (v : Byte) : (setLfsr v s).dec = s.dec := rfl
@[simp] theorem setLfsr_dev (v : Byte) : (setLfsr v s).dev = s.dev := rfl
@[simp] theorem setLfsr_fresh (v : Byte) : (setLfsr v s).fresh = s.fresh := rfl
@[simp] theorem setLfsr_nic (v : Byte) : (setLfsr v s).nic = s.nic := rfl
@[simp] theorem setLfsr_phase (v : Byte) : (setLfsr v s).phase = s.phase := rfl
@[simp] theorem setLfsr_rx (v : Byte) : (setLfsr v s).rx = s.rx := rfl
@[simp] theorem setLfsr_fl (v : Byte) : (setLfsr v s).fl = s.fl := rfl
@[simp] theorem setLfsr_q (v : Byte) : (setLfsr v s).q = s.q := rfl
@[simp] theorem setLfsr_taken (v : Byte) : (setLfsr v s).taken = s.taken := rfl
@[simp] theorem setLfsr_log (v : Byte) : (setLfsr v s).log = s.log := rfl
@[simp] theorem setLfsr_wr (v : Byte) : (setLfsr v s).wr = s.wr := rfl
@[simp] theorem setLfsr_ctl (v : Byte) : (setLfsr v s).ctl = s.ctl := rfl
@[simp] theorem setLfsr_heap (v : Byte) : (setLfsr v s).heap = s.heap := rfl
@[simp] theorem setLfsr_bus (v : Byte) : (setLfsr v s).bus = s.bus := rfl

@[simp] theorem setPage_cfg (p : Option RegPage) : (setPage p s).cfg = s.cfg := rfl
@[simp] theorem setPage_iso (p : Option RegPage) : (setPage p s).iso = s.iso := rfl
@[simp] theorem setPage_dec (p : Option RegPage) : (setPage p s).dec = s.dec := rfl
@[simp] theorem setPage_dev (p : Option RegPage) : (setPage p s).dev = s.dev := rfl
@[simp] theorem setPage_fresh (p : Option RegPage) : (setPage p s).fresh = s.fresh := rfl
@[simp] theorem setPage_phase (p : Option RegPage) : (setPage p s).phase = s.phase := rfl
@[simp] theorem setPage_rx (p : Option RegPage) : (setPage p s).rx = s.rx := rfl
@[simp] theorem setPage_fl (p : Option RegPage) : (setPage p s).fl = s.fl := rfl
@[simp] theorem setPage_q (p : Option RegPage) : (setPage p s).q = s.q := rfl
@[simp] theorem setPage_taken (p : Option RegPage) : (setPage p s).taken = s.taken := rfl
@[simp] theorem setPage_log (p : Option RegPage) : (setPage p s).log = s.log := rfl
@[simp] theorem setPage_wr (p : Option RegPage) : (setPage p s).wr = s.wr := rfl
@[simp] theorem setPage_ctl (p : Option RegPage) : (setPage p s).ctl = s.ctl := rfl
@[simp] theorem setPage_heap (p : Option RegPage) : (setPage p s).heap = s.heap := rfl
@[simp] theorem setPage_bus (p : Option RegPage) : (setPage p s).bus = s.bus := rfl

@[simp] theorem setCurld_cfg (c : CurLd) : (setCurld c s).cfg = s.cfg := rfl
@[simp] theorem setCurld_iso (c : CurLd) : (setCurld c s).iso = s.iso := rfl
@[simp] theorem setCurld_dev (c : CurLd) : (setCurld c s).dev = s.dev := rfl
@[simp] theorem setCurld_fresh (c : CurLd) : (setCurld c s).fresh = s.fresh := rfl
@[simp] theorem setCurld_nic (c : CurLd) : (setCurld c s).nic = s.nic := rfl
@[simp] theorem setCurld_phase (c : CurLd) : (setCurld c s).phase = s.phase := rfl
@[simp] theorem setCurld_rx (c : CurLd) : (setCurld c s).rx = s.rx := rfl
@[simp] theorem setCurld_fl (c : CurLd) : (setCurld c s).fl = s.fl := rfl
@[simp] theorem setCurld_q (c : CurLd) : (setCurld c s).q = s.q := rfl
@[simp] theorem setCurld_taken (c : CurLd) : (setCurld c s).taken = s.taken := rfl
@[simp] theorem setCurld_log (c : CurLd) : (setCurld c s).log = s.log := rfl
@[simp] theorem setCurld_ctl (c : CurLd) : (setCurld c s).ctl = s.ctl := rfl
@[simp] theorem setCurld_heap (c : CurLd) : (setCurld c s).heap = s.heap := rfl
@[simp] theorem setCurld_bus (c : CurLd) : (setCurld c s).bus = s.bus := rfl

@[simp] theorem setIocfg_cfg (v : Byte) : (setIocfg v s).cfg = s.cfg := rfl
@[simp] theorem setIocfg_iso (v : Byte) : (setIocfg v s).iso = s.iso := rfl
@[simp] theorem setIocfg_dev (v : Byte) : (setIocfg v s).dev = s.dev := rfl
@[simp] theorem setIocfg_fresh (v : Byte) : (setIocfg v s).fresh = s.fresh := rfl
@[simp] theorem setIocfg_nic (v : Byte) : (setIocfg v s).nic = s.nic := rfl
@[simp] theorem setIocfg_phase (v : Byte) : (setIocfg v s).phase = s.phase := rfl
@[simp] theorem setIocfg_rx (v : Byte) : (setIocfg v s).rx = s.rx := rfl
@[simp] theorem setIocfg_fl (v : Byte) : (setIocfg v s).fl = s.fl := rfl
@[simp] theorem setIocfg_q (v : Byte) : (setIocfg v s).q = s.q := rfl
@[simp] theorem setIocfg_taken (v : Byte) : (setIocfg v s).taken = s.taken := rfl
@[simp] theorem setIocfg_log (v : Byte) : (setIocfg v s).log = s.log := rfl
@[simp] theorem setIocfg_wr (v : Byte) : (setIocfg v s).wr = s.wr := rfl
@[simp] theorem setIocfg_ctl (v : Byte) : (setIocfg v s).ctl = s.ctl := rfl
@[simp] theorem setIocfg_heap (v : Byte) : (setIocfg v s).heap = s.heap := rfl
@[simp] theorem setIocfg_bus (v : Byte) : (setIocfg v s).bus = s.bus := rfl

@[simp] theorem setIrqcfg_cfg (v : Byte) : (setIrqcfg v s).cfg = s.cfg := rfl
@[simp] theorem setIrqcfg_iso (v : Byte) : (setIrqcfg v s).iso = s.iso := rfl
@[simp] theorem setIrqcfg_dev (v : Byte) : (setIrqcfg v s).dev = s.dev := rfl
@[simp] theorem setIrqcfg_fresh (v : Byte) : (setIrqcfg v s).fresh = s.fresh := rfl
@[simp] theorem setIrqcfg_nic (v : Byte) : (setIrqcfg v s).nic = s.nic := rfl
@[simp] theorem setIrqcfg_phase (v : Byte) : (setIrqcfg v s).phase = s.phase := rfl
@[simp] theorem setIrqcfg_rx (v : Byte) : (setIrqcfg v s).rx = s.rx := rfl
@[simp] theorem setIrqcfg_fl (v : Byte) : (setIrqcfg v s).fl = s.fl := rfl
@[simp] theorem setIrqcfg_q (v : Byte) : (setIrqcfg v s).q = s.q := rfl
@[simp] theorem setIrqcfg_taken (v : Byte) : (setIrqcfg v s).taken = s.taken := rfl
@[simp] theorem setIrqcfg_log (v : Byte) : (setIrqcfg v s).log = s.log := rfl
@[simp] theorem setIrqcfg_wr (v : Byte) : (setIrqcfg v s).wr = s.wr := rfl
@[simp] theorem setIrqcfg_ctl (v : Byte) : (setIrqcfg v s).ctl = s.ctl := rfl
@[simp] theorem setIrqcfg_heap (v : Byte) : (setIrqcfg v s).heap = s.heap := rfl
@[simp] theorem setIrqcfg_bus (v : Byte) : (setIrqcfg v s).bus = s.bus := rfl

@[simp] theorem addCsum_cfg (b : Byte) : (addCsum b s).cfg = s.cfg := rfl
@[simp] theorem addCsum_iso (b : Byte) : (addCsum b s).iso = s.iso := rfl
@[simp] theorem addCsum_dev (b : Byte) : (addCsum b s).dev = s.dev := rfl
@[simp] theorem addCsum_fresh (b : Byte) : (addCsum b s).fresh = s.fresh := rfl
@[simp] theorem addCsum_nic (b : Byte) : (addCsum b s).nic = s.nic := rfl
@[simp] theorem addCsum_phase (b : Byte) : (addCsum b s).phase = s.phase := rfl
@[simp] theorem addCsum_rx (b : Byte) : (addCsum b s).rx = s.rx := rfl
@[simp] theorem addCsum_fl (b : Byte) : (addCsum b s).fl = s.fl := rfl
@[simp] theorem addCsum_q (b : Byte) : (addCsum b s).q = s.q := rfl
@[simp] theorem addCsum_taken (b : Byte) : (addCsum b s).taken = s.taken := rfl
@[simp] theorem addCsum_log (b : Byte) : (addCsum b s).log = s.log := rfl
@[simp] theorem addCsum_wr (b : Byte) : (addCsum b s).wr = s.wr := rfl
@[simp] theorem addCsum_ctl (b : Byte) : (addCsum b s).ctl = s.ctl := rfl
@[simp] theorem addCsum_heap (b : Byte) : (addCsum b s).heap = s.heap := rfl
@[simp] theorem addCsum_bus (b : Byte) : (addCsum b s).bus = s.bus := rfl

@[simp] theorem modCrd_cfg (i : Nat) (f : Crd → Crd) : (modCrd i f s).cfg = s.cfg := rfl
@[simp] theorem modCrd_iso (i : Nat) (f : Crd → Crd) : (modCrd i f s).iso = s.iso := rfl
@[simp] theorem modCrd_dec (i : Nat) (f : Crd → Crd) : (modCrd i f s).dec = s.dec := rfl
@[simp] theorem modCrd_fresh (i : Nat) (f : Crd → Crd) : (modCrd i f s).fresh = s.fresh := rfl
@[simp] theorem modCrd_nic (i : Nat) (f : Crd → Crd) : (modCrd i f s).nic = s.nic := rfl
@[simp] theorem modCrd_phase (i : Nat) (f : Crd → Crd) : (modCrd i f s).phase = s.phase := rfl
@[simp] theorem modCrd_rx (i : Nat) (f : Crd → Crd) : (modCrd i f s).rx = s.rx := rfl
@[simp] theorem modCrd_fl (i : Nat) (f : Crd → Crd) : (modCrd i f s).fl = s.fl := rfl
@[simp] theorem modCrd_q (i : Nat) (f : Crd → Crd) : (modCrd i f s).q = s.q := rfl
@[simp] theorem modCrd_taken (i : Nat) (f : Crd → Crd) : (modCrd i f s).taken = s.taken := rfl
@[simp] theorem modCrd_log (i : Nat) (f : Crd → Crd) : (modCrd i f s).log = s.log := rfl
@[simp] theorem modCrd_wr (i : Nat) (f : Crd → Crd) : (modCrd i f s).wr = s.wr := rfl
@[simp] theorem modCrd_ctl (i : Nat) (f : Crd → Crd) : (modCrd i f s).ctl = s.ctl := rfl
@[simp] theorem modCrd_heap (i : Nat) (f : Crd → Crd) : (modCrd i f s).heap = s.heap := rfl
@[simp] theorem modCrd_bus (i : Nat) (f : Crd → Crd) : (modCrd i f s).bus = s.bus := rfl

@[simp] theorem modLd_cfg (i j : Nat) (f : LogicalDevice → LogicalDevice) : (modLd i j f s).cfg = s.cfg := rfl
@[simp] theorem modLd_iso (i j : Nat) (f : LogicalDevice → LogicalDevice) : (modLd i j f s).iso = s.iso := rfl
@[simp] theorem modLd_dec (i j : Nat) (f : LogicalDevice → LogicalDevice) : (modLd i j f s).dec = s.dec := rfl
@[simp] theorem modLd_fresh (i j : Nat) (f : LogicalDevice → LogicalDevice) : (modLd i j f s).fresh = s.fresh := rfl
@[simp] theorem modLd_nic (i j : Nat) (f : LogicalDevice → LogicalDevice) : (modLd i j f s).nic = s.nic := rfl
@[simp] theorem modLd_phase (i j : Nat) (f : LogicalDevice → LogicalDevice) : (modLd i j f s).phase = s.phase := rfl
@[simp] theorem modLd_rx (i j : Nat) (f : LogicalDevice → LogicalDevice) : (modLd i j f s).rx = s.rx := rfl
@[simp] theorem modLd_fl (i j : Nat) (f : LogicalDevice → LogicalDevice) : (modLd i j f s).fl = s.fl := rfl
@[simp] theorem modLd_q (i j : Nat) (f : LogicalDevice → LogicalDevice) : (modLd i j f s).q = s.q := rfl
@[simp] theorem modLd_taken (i j : Nat) (f : LogicalDevice → LogicalDevice) : (modLd i j f s).taken = s.taken := rfl
@[simp] theorem modLd_log (i j : Nat) (f : LogicalDevice → LogicalDevice) : (modLd i j f s).log = s.log := rfl
@[simp] theorem modLd_wr (i j : Nat) (f : LogicalDevice → LogicalDevice) : (modLd i j f s).wr = s.wr := rfl
@[simp] theorem modLd_ctl (i j : Nat) (f : LogicalDevice → LogicalDevice) : (modLd i j f s).ctl = s.ctl := rfl
@[simp] theorem modLd_heap (i j : Nat) (f : LogicalDevice → LogicalDevice) : (modLd i j f s).heap = s.heap := rfl
@[simp] theorem modLd_bus (i j : Nat) (f : LogicalDevice → LogicalDevice) : (modLd i j f s).bus = s.bus := rfl

@[simp] theorem modIo_cfg (i j k : Nat) (f : IoRange → IoRange) : (modIo i j k f s).cfg = s.cfg := rfl
@[simp] theorem modIo_iso (i j k : Nat) (f : IoRange → IoRange) : (modIo i j k f s).iso = s.iso := rfl
@[simp] theorem modIo_dec (i j k : Nat) (f : IoRange → IoRange) : (modIo i j k f s).dec = s.dec := rfl
@[simp] theorem modIo_fresh (i j k : Nat) (f : IoRange → IoRange) : (modIo i j k f s).fresh = s.fresh := rfl
@[simp] theorem modIo_nic (i j k : Nat) (f : IoRange → IoRange) : (modIo i j k f s).nic = s.nic := rfl
@[simp] theorem modIo_phase (i j k : Nat) (f : IoRange → IoRange) : (modIo i j k f s).phase = s.phase := rfl
@[simp] theorem modIo_rx (i j k : Nat) (f : IoRange → IoRange) : (modIo i j k f s).rx = s.rx := rfl
@[simp] theorem modIo_fl (i j k : Nat) (f : IoRange → IoRange) : (modIo i j k f s).fl = s.fl := rfl
@[simp] theorem modIo_q (i j k : Nat) (f : IoRange → IoRange) : (modIo i j k f s).q = s.q := rfl
@[simp] theorem modIo_taken (i j k : Nat) (f : IoRange → IoRange) : (modIo i j k f s).taken = s.taken := rfl
@[simp] theorem modIo_log (i j k : Nat) (f : IoRange → IoRange) : (modIo i j k f s).log = s.log := rfl
@[simp] theorem modIo_wr (i j k : Nat) (f : IoRange → IoRange) : (modIo i j k f s).wr = s.wr := rfl
@[simp] theorem modIo_ctl (i j k : Nat) (f : IoRange → IoRange) : (modIo i j k f s).ctl = s.ctl := rfl
@[simp] theorem modIo_heap (i j k : Nat) (f : IoRange → IoRange) : (modIo i j k f s).heap = s.heap := rfl
@[simp] theorem modIo_bus (i j k : Nat) (f : IoRange → IoRange) : (modIo i j k f s).bus = s.bus := rfl

@[simp] theorem setFr_cfg (r : Option FrameRec) : (setFr r s).cfg = s.cfg := rfl
@[simp] theorem setFr_iso (r : Option FrameRec) : (setFr r s).iso = s.iso := rfl
@[simp] theorem setFr_dec (r : Option FrameRec) : (setFr r s).dec = s.dec := rfl
@[simp] theorem setFr_dev (r : Option FrameRec) : (setFr r s).dev = s.dev := rfl
@[simp] theorem setFr_fresh (r : Option FrameRec) : (setFr r s).fresh = s.fresh := rfl
@[simp] theorem setFr_nic (r : Option FrameRec) : (setFr r s).nic = s.nic := rfl
@[simp] theorem setFr_phase (r : Option FrameRec) : (setFr r s).phase = s.phase := rfl
@[simp] theorem setFr_fl (r : Option FrameRec) : (setFr r s).fl = s.fl := rfl
@[simp] theorem setFr_q (r : Option FrameRec) : (setFr r s).q = s.q := rfl
@[simp] theorem setFr_taken (r : Option FrameRec) : (setFr r s).taken = s.taken := rfl
@[simp] theorem setFr_log (r : Option FrameRec) : (setFr r s).log = s.log := rfl
@[simp] theorem setFr_ctl (r : Option FrameRec) : (setFr r s).ctl = s.ctl := rfl
@[simp] theorem setFr_heap (r : Option FrameRec) : (setFr r s).heap = s.heap := rfl
@[simp] theorem setFr_bus (r : Option FrameRec) : (setFr r s).bus = s.bus := rfl

@[simp] theorem request_cfg (e : Event) : (request e s).cfg = s.cfg := rfl
@[simp] theorem request_iso (e : Event) : (request e s).iso = s.iso := rfl
@[simp] theorem request_dec (e : Event) : (request e s).dec = s.dec := rfl
@[simp] theorem request_dev (e : Event) : (request e s).dev = s.dev := rfl
@[simp] theorem request_fresh (e : Event) : (request e s).fresh = s.fresh := rfl
@[simp] theorem request_nic (e : Event) : (request e s).nic = s.nic := rfl
@[simp] theorem request_phase (e : Event) : (request e s).phase = s.phase := rfl
@[simp] theorem request_rx (e : Event) : (request e s).rx = s.rx := rfl
@[simp] theorem request_fl (e : Event) : (request e s).fl = s.fl := rfl
@[simp] theorem request_q (e : Event) : (request e s).q = s.q := rfl
@[simp] theorem request_taken (e : Event) : (request e s).taken = s.taken := rfl
@[simp] theorem request_log (e : Event) : (request e s).log = s.log := rfl
@[simp] theorem request_wr (e : Event) : (request e s).wr = s.wr := rfl
@[simp] theorem request_ctl (e : Event) : (request e s).ctl = s.ctl := rfl
@[simp] theorem request_heap (e : Event) : (request e s).heap = s.heap := rfl

@[simp] theorem ioWrite8_cfg (p : Half) (v : Byte) : (ioWrite8 p v s).cfg = s.cfg := rfl
@[simp] theorem ioWrite8_iso (p : Half) (v : Byte) : (ioWrite8 p v s).iso = s.iso := rfl
@[simp] theorem ioWrite8_dec (p : Half) (v : Byte) : (ioWrite8 p v s).dec = s.dec := rfl
@[simp] theorem ioWrite8_dev (p : Half) (v : Byte) : (ioWrite8 p v s).dev = s.dev := rfl
@[simp] theorem ioWrite8_fresh (p : Half) (v : Byte) : (ioWrite8 p v s).fresh = s.fresh := rfl
@[simp] theorem ioWrite8_nic (p : Half) (v : Byte) : (ioWrite8 p v s).nic = s.nic := rfl
@[simp] theorem ioWrite8_phase (p : Half) (v : Byte) : (ioWrite8 p v s).phase = s.phase := rfl
@[simp] theorem ioWrite8_rx (p : Half) (v : Byte) : (ioWrite8 p v s).rx = s.rx := rfl
@[simp] theorem ioWrite8_fl (p : Half) (v : Byte) : (ioWrite8 p v s).fl = s.fl := rfl
@[simp] theorem ioWrite8_q (p : Half) (v : Byte) : (ioWrite8 p v s).q = s.q := rfl
@[simp] theorem ioWrite8_taken (p : Half) (v : Byte) : (ioWrite8 p v s).taken = s.taken := rfl
@[simp] theorem ioWrite8_log (p : Half) (v : Byte) : (ioWrite8 p v s).log = s.log := rfl
@[simp] theorem ioWrite8_wr (p : Half) (v : Byte) : (ioWrite8 p v s).wr = s.wr := rfl
@[simp] theorem ioWrite8_ctl (p : Half) (v : Byte) : (ioWrite8 p v s).ctl = s.ctl := rfl
@[simp] theorem ioWrite8_heap (p : Half) (v : Byte) : (ioWrite8 p v s).heap = s.heap := rfl

@[simp] theorem ioRead8_cfg (p : Half) : ((ioRead8 p s).2).cfg = s.cfg := rfl
@[simp] theorem ioRead8_iso (p : Half) : ((ioRead8 p s).2).iso = s.iso := rfl
@[simp] theorem ioRead8_dec (p : Half) : ((ioRead8 p s).2).dec = s.dec := rfl
@[simp] theorem ioRead8_dev (p : Half) : ((ioRead8 p s).2).dev = s.dev := rfl
@[simp] theorem ioRead8_fresh (p : Half) : ((ioRead8 p s).2).fresh = s.fresh := rfl
@[simp] theorem ioRead8_nic (p : Half) : ((ioRead8 p s).2).nic = s.nic := rfl
@[simp] theorem ioRead8_phase (p : Half) : ((ioRead8 p s).2).phase = s.phase := rfl
@[simp] theorem ioRead8_rx (p : Half) : ((ioRead8 p s).2).rx = s.rx := rfl
@[simp] theorem ioRead8_fl (p : Half) : ((ioRead8 p s).2).fl = s.fl := rfl
@[simp] theorem ioRead8_q (p : Half) : ((ioRead8 p s).2).q = s.q := rfl
@[simp] theorem ioRead8_taken (p : Half) : ((ioRead8 p s).2).taken = s.taken := rfl
@[simp] theorem ioRead8_log (p : Half) : ((ioRead8 p s).2).log = s.log := rfl
@[simp] theorem ioRead8_wr (p : Half) : ((ioRead8 p s).2).wr = s.wr := rfl
@[simp] theorem ioRead8_ctl (p : Half) : ((ioRead8 p s).2).ctl = s.ctl := rfl
@[simp] theorem ioRead8_heap (p : Half) : ((ioRead8 p s).2).heap = s.heap := rfl

@[simp] theorem ioRead16_cfg (p : Half) : ((ioRead16 p s).2).cfg = s.cfg := rfl
@[simp] theorem ioRead16_iso (p : Half) : ((ioRead16 p s).2).iso = s.iso := rfl
@[simp] theorem ioRead16_dec (p : Half) : ((ioRead16 p s).2).dec = s.dec := rfl
@[simp] theorem ioRead16_dev (p : Half) : ((ioRead16 p s).2).dev = s.dev := rfl
@[simp] theorem ioRead16_fresh (p : Half) : ((ioRead16 p s).2).fresh = s.fresh := rfl
@[simp] theorem ioRead16_nic (p : Half) : ((ioRead16 p s).2).nic = s.nic := rfl
@[simp] theorem ioRead16_phase (p : Half) : ((ioRead16 p s).2).phase = s.phase := rfl
@[simp] theorem ioRead16_rx (p : Half) : ((ioRead16 p s).2).rx = s.rx := rfl
@[simp] theorem ioRead16_fl (p : Half) : ((ioRead16 p s).2).fl = s.fl := rfl
@[simp] theorem ioRead16_q (p : Half) : ((ioRead16 p s).2).q = s.q := rfl
@[simp] theorem ioRead16_taken (p : Half) : ((ioRead16 p s).2).taken = s.taken := rfl
@[simp] theorem ioRead16_log (p : Half) : ((ioRead16 p s).2).log = s.log := rfl
@[simp] theorem ioRead16_wr (p : Half) : ((ioRead16 p s).2).wr = s.wr := rfl
@[simp] theorem ioRead16_ctl (p : Half) : ((ioRead16 p s).2).ctl = s.ctl := rfl
@[simp] theorem ioRead16_heap (p : Half) : ((ioRead16 p s).2).heap = s.heap := rfl

@[simp] theorem shiftLfsr_cfg (b : Bool) : (shiftLfsr b s).cfg = s.cfg := rfl
@[simp] theorem shiftLfsr_dec (b : Bool) : (shiftLfsr b s).dec = s.dec := rfl
@[simp] theorem shiftLfsr_dev (b : Bool) : (shiftLfsr b s).dev = s.dev := rfl
@[simp] theorem shiftLfsr_fresh (b : Bool) : (shiftLfsr b s).fresh = s.fresh := rfl
@[simp] theorem shiftLfsr_nic (b : Bool) : (shiftLfsr b s).nic = s.nic := rfl
@[simp] theorem shiftLfsr_phase (b : Bool) : (shiftLfsr b s).phase = s.phase := rfl
@[simp] theorem shiftLfsr_rx (b : Bool) : (shiftLfsr b s).rx = s.rx := rfl
@[simp] theorem shiftLfsr_fl (b : Bool) : (shiftLfsr b s).fl = s.fl := rfl
@[simp] theorem shiftLfsr_q (b : Bool) : (shiftLfsr b s).q = s.q := rfl
@[simp] theorem shiftLfsr_taken (b : Bool) : (shiftLfsr b s).taken = s.taken := rfl
@[simp] theorem shiftLfsr_log (b : Bool) : (shiftLfsr b s).log = s.log := rfl
@[simp] theorem shiftLfsr_wr (b : Bool) : (shiftLfsr b s).wr = s.wr := rfl
@[simp] theorem shiftLfsr_ctl (b : Bool) : (shiftLfsr b s).ctl = s.ctl := rfl
@[simp] theorem shiftLfsr_heap (b : Bool) : (shiftLfsr b s).heap = s.heap := rfl
@[simp] theorem shiftLfsr_bus (b : Bool) : (shiftLfsr b s).bus = s.bus := rfl

@[simp] theorem setId_cfg (v : BitVec 72) : (setId v s).cfg = s.cfg := rfl
@[simp] theorem setId_dec (v : BitVec 72) : (setId v s).dec = s.dec := rfl
@[simp] theorem setId_dev (v : BitVec 72) : (setId v s).dev = s.dev := rfl
@[simp] theorem setId_fresh (v : BitVec 72) : (setId v s).fresh = s.fresh := rfl
@[simp] theorem setId_nic (v : BitVec 72) : (setId v s).nic = s.nic := rfl
@[simp] theorem setId_phase (v : BitVec 72) : (setId v s).phase = s.phase := rfl
@[simp] theorem setId_rx (v : BitVec 72) : (setId v s).rx = s.rx := rfl
@[simp] theorem setId_fl (v : BitVec 72) : (setId v s).fl = s.fl := rfl
@[simp] theorem setId_q (v : BitVec 72) : (setId v s).q = s.q := rfl
@[simp] theorem setId_taken (v : BitVec 72) : (setId v s).taken = s.taken := rfl
@[simp] theorem setId_log (v : BitVec 72) : (setId v s).log = s.log := rfl
@[simp] theorem setId_ctl (v : BitVec 72) : (setId v s).ctl = s.ctl := rfl
@[simp] theorem setId_heap (v : BitVec 72) : (setId v s).heap = s.heap := rfl
@[simp] theorem setId_bus (v : BitVec 72) : (setId v s).bus = s.bus := rfl

@[simp] theorem setBitcnt_cfg (n : BitVec 7) : (setBitcnt n s).cfg = s.cfg := rfl
@[simp] theorem setBitcnt_dec (n : BitVec 7) : (setBitcnt n s).dec = s.dec := rfl
@[simp] theorem setBitcnt_dev (n : BitVec 7) : (setBitcnt n s).dev = s.dev := rfl
@[simp] theorem setBitcnt_fresh (n : BitVec 7) : (setBitcnt n s).fresh = s.fresh := rfl
@[simp] theorem setBitcnt_nic (n : BitVec 7) : (setBitcnt n s).nic = s.nic := rfl
@[simp] theorem setBitcnt_phase (n : BitVec 7) : (setBitcnt n s).phase = s.phase := rfl
@[simp] theorem setBitcnt_rx (n : BitVec 7) : (setBitcnt n s).rx = s.rx := rfl
@[simp] theorem setBitcnt_fl (n : BitVec 7) : (setBitcnt n s).fl = s.fl := rfl
@[simp] theorem setBitcnt_q (n : BitVec 7) : (setBitcnt n s).q = s.q := rfl
@[simp] theorem setBitcnt_taken (n : BitVec 7) : (setBitcnt n s).taken = s.taken := rfl
@[simp] theorem setBitcnt_log (n : BitVec 7) : (setBitcnt n s).log = s.log := rfl
@[simp] theorem setBitcnt_wr (n : BitVec 7) : (setBitcnt n s).wr = s.wr := rfl
@[simp] theorem setBitcnt_ctl (n : BitVec 7) : (setBitcnt n s).ctl = s.ctl := rfl
@[simp] theorem setBitcnt_heap (n : BitVec 7) : (setBitcnt n s).heap = s.heap := rfl
@[simp] theorem setBitcnt_bus (n : BitVec 7) : (setBitcnt n s).bus = s.bus := rfl

@[simp] theorem setRdpReg_cfg (p : Half) : (setRdpReg p s).cfg = s.cfg := rfl
@[simp] theorem setRdpReg_dec (p : Half) : (setRdpReg p s).dec = s.dec := rfl
@[simp] theorem setRdpReg_dev (p : Half) : (setRdpReg p s).dev = s.dev := rfl
@[simp] theorem setRdpReg_fresh (p : Half) : (setRdpReg p s).fresh = s.fresh := rfl
@[simp] theorem setRdpReg_nic (p : Half) : (setRdpReg p s).nic = s.nic := rfl
@[simp] theorem setRdpReg_phase (p : Half) : (setRdpReg p s).phase = s.phase := rfl
@[simp] theorem setRdpReg_rx (p : Half) : (setRdpReg p s).rx = s.rx := rfl
@[simp] theorem setRdpReg_fl (p : Half) : (setRdpReg p s).fl = s.fl := rfl
@[simp] theorem setRdpReg_q (p : Half) : (setRdpReg p s).q = s.q := rfl
@[simp] theorem setRdpReg_taken (p : Half) : (setRdpReg p s).taken = s.taken := rfl
@[simp] theorem setRdpReg_log (p : Half) : (setRdpReg p s).log = s.log := rfl
@[simp] theorem setRdpReg_ctl (p : Half) : (setRdpReg p s).ctl = s.ctl := rfl
@[simp] theorem setRdpReg_heap (p : Half) : (setRdpReg p s).heap = s.heap := rfl
@[simp] theorem setRdpReg_bus (p : Half) : (setRdpReg p s).bus = s.bus := rfl

@[simp] theorem setFresh_cfg (e : Entry) : (setFresh e s).cfg = s.cfg := rfl
@[simp] theorem setFresh_iso (e : Entry) : (setFresh e s).iso = s.iso := rfl
@[simp] theorem setFresh_dec (e : Entry) : (setFresh e s).dec = s.dec := rfl
@[simp] theorem setFresh_dev (e : Entry) : (setFresh e s).dev = s.dev := rfl
@[simp] theorem setFresh_nic (e : Entry) : (setFresh e s).nic = s.nic := rfl
@[simp] theorem setFresh_phase (e : Entry) : (setFresh e s).phase = s.phase := rfl
@[simp] theorem setFresh_rx (e : Entry) : (setFresh e s).rx = s.rx := rfl
@[simp] theorem setFresh_fl (e : Entry) : (setFresh e s).fl = s.fl := rfl
@[simp] theorem setFresh_q (e : Entry) : (setFresh e s).q = s.q := rfl
@[simp] theorem setFresh_taken (e : Entry) : (setFresh e s).taken = s.taken := rfl
@[simp] theorem setFresh_log (e : Entry) : (setFresh e s).log = s.log := rfl
@[simp] theorem setFresh_wr (e : Entry) : (setFresh e s).wr = s.wr := rfl
@[simp] theorem setFresh_ctl (e : Entry) : (setFresh e s).ctl = s.ctl := rfl
@[simp] theorem setFresh_heap (e : Entry) : (setFresh e s).heap = s.heap := rfl
@[simp] theorem setFresh_bus (e : Entry) : (setFresh e s).bus = s.bus := rfl

@[simp] theorem modFresh_cfg (f : Entry → Entry) : (modFresh f s).cfg = s.cfg := rfl
@[simp] theorem modFresh_iso (f : Entry → Entry) : (modFresh f s).iso = s.iso := rfl
@[simp] theorem modFresh_dec (f : Entry → Entry) : (modFresh f s).dec = s.dec := rfl
@[simp] theorem modFresh_dev (f : Entry → Entry) : (modFresh f s).dev = s.dev := rfl
@[simp] theorem modFresh_nic (f : Entry → Entry) : (modFresh f s).nic = s.nic := rfl
@[simp] theorem modFresh_phase (f : Entry → Entry) : (modFresh f s).phase = s.phase := rfl
@[simp] theorem modFresh_rx (f : Entry → Entry) : (modFresh f s).rx = s.rx := rfl
@[simp] theorem modFresh_fl (f : Entry → Entry) : (modFresh f s).fl = s.fl := rfl
@[simp] theorem modFresh_q (f : Entry → Entry) : (modFresh f s).q = s.q := rfl
@[simp] theorem modFresh_taken (f : Entry → Entry) : (modFresh f s).taken = s.taken := rfl
@[simp] theorem modFresh_log (f : Entry → Entry) : (modFresh f s).log = s.log := rfl
@[simp] theorem modFresh_wr (f : Entry → Entry) : (modFresh f s).wr = s.wr := rfl
@[simp] theorem modFresh_ctl (f : Entry → Entry) : (modFresh f s).ctl = s.ctl := rfl
@[simp] theorem modFresh_heap (f : Entry → Entry) : (modFresh f s).heap = s.heap := rfl
@[simp] theorem modFresh_bus (f : Entry → Entry) : (modFresh f s).bus = s.bus := rfl

@[simp] theorem fillDevice_cfg : (fillDevice s).cfg = s.cfg := rfl
@[simp] theorem fillDevice_iso : (fillDevice s).iso = s.iso := rfl
@[simp] theorem fillDevice_dec : (fillDevice s).dec = s.dec := rfl
@[simp] theorem fillDevice_dev : (fillDevice s).dev = s.dev := rfl
@[simp] theorem fillDevice_nic : (fillDevice s).nic = s.nic := rfl
@[simp] theorem fillDevice_phase : (fillDevice s).phase = s.phase := rfl
@[simp] theorem fillDevice_rx : (fillDevice s).rx = s.rx := rfl
@[simp] theorem fillDevice_fl : (fillDevice s).fl = s.fl := rfl
@[simp] theorem fillDevice_q : (fillDevice s).q = s.q := rfl
@[simp] theorem fillDevice_taken : (fillDevice s).taken = s.taken := rfl
@[simp] theorem fillDevice_log : (fillDevice s).log = s.log := rfl
@[simp] theorem fillDevice_wr : (fillDevice s).wr = s.wr := rfl
@[simp] theorem fillDevice_ctl : (fillDevice s).ctl = s.ctl := rfl
@[simp] theorem fillDevice_heap : (fillDevice s).heap = s.heap := rfl
@[simp] theorem fillDevice_bus : (fillDevice s).bus = s.bus := rfl

/-- Counting an entry takes the one that was filled into its table, or changes nothing where another kind of entry, or
none, is being filled. -/
theorem countEntry_cases (add : Entry → Option (State → State)) :
    (∃ e f, s.fresh = some e ∧ add e = some f ∧ countEntry add s = { f s with fresh := none }) ∨
      ((∀ e, s.fresh = some e → add e = none) ∧ countEntry add s = s) := by
  unfold countEntry
  cases h : s.fresh with
  | none => exact .inr ⟨by simp, by simp⟩
  | some e =>
    cases ha : add e with
    | none => exact .inr ⟨by simpa using ha, by simp [ha]⟩
    | some f => exact .inl ⟨e, f, rfl, ha, by simp [ha]⟩

theorem countEntry_of {add : Entry → Option (State → State)} {s : State} {e : Entry} {f : State → State}
    (h : s.fresh = some e) (ha : add e = some f) : countEntry add s = { f s with fresh := none } := by
  simp [countEntry, h, ha]

/-- Counting a device changes the device table and the entry being filled, and nothing else. -/
theorem countDevice_cases :
    (∃ d, s.fresh = some (.device d) ∧
        countDevice s = { s with dev := addEntry Config.devCap s.dev d, fresh := none }) ∨
      ((∀ d, s.fresh ≠ some (.device d)) ∧ countDevice s = s) := by
  rcases countEntry_cases s Entry.toDev with ⟨e, f, h, ha, k⟩ | ⟨h, k⟩
  · cases e <;> simp only [Entry.toDev, Option.some.injEq, reduceCtorEq] at ha
    subst ha
    exact .inl ⟨_, h, k⟩
  · exact .inr ⟨fun d hd => by simpa [Entry.toDev] using h _ hd, k⟩

/-- Counting a logical device: the same for the card's data. -/
theorem countLd_cases (i : Nat) :
    (∃ l, s.fresh = some (.ld l) ∧
        countLd i s = { modCrd i (fun c => { c with lds := addEntry Config.ldCap c.lds l }) s with fresh := none }) ∨
      ((∀ l, s.fresh ≠ some (.ld l)) ∧ countLd i s = s) := by
  rcases countEntry_cases s (Entry.toCrd i) with ⟨e, f, h, ha, k⟩ | ⟨h, k⟩
  · cases e <;> simp only [Entry.toCrd, Option.some.injEq, reduceCtorEq] at ha
    subst ha
    exact .inl ⟨_, h, k⟩
  · exact .inr ⟨fun d hd => by simpa [Entry.toCrd] using h _ hd, k⟩

/-- Counting an entry of a logical device: the same for that device's lists. -/
theorem countIn_cases (i j : Nat) :
    (∃ e f, s.fresh = some e ∧ e.added = some f ∧ countIn i j s = { modLd i j f s with fresh := none }) ∨
      countIn i j s = s := by
  rcases countEntry_cases s (Entry.toLd i j) with ⟨e, f, h, ha, k⟩ | ⟨-, k⟩
  · obtain ⟨g, hg, rfl⟩ := Option.map_eq_some_iff.1 ha
    exact .inl ⟨e, g, h, hg, k⟩
  · exact .inr k

theorem countIn_of {s : State} {e : Entry} {f : LogicalDevice → LogicalDevice} (h : s.fresh = some e)
    (ha : e.added = some f) (i j : Nat) : countIn i j s = { modLd i j f s with fresh := none } :=
  countEntry_of h (by simp [Entry.toLd, ha])

theorem countDevice_frame :
    countDevice s = { s with dev := (countDevice s).dev, fresh := (countDevice s).fresh } := by
  rcases countDevice_cases s with ⟨d, -, k⟩ | ⟨-, k⟩ <;> rw [k]

theorem countLd_frame (i : Nat) :
    countLd i s = { s with dev := (countLd i s).dev, fresh := (countLd i s).fresh } := by
  rcases countLd_cases s i with ⟨d, -, k⟩ | ⟨-, k⟩
  · rw [k]; rfl
  · rw [k]

theorem countIn_frame (i j : Nat) :
    countIn i j s = { s with dev := (countIn i j s).dev, fresh := (countIn i j s).fresh } := by
  rcases countIn_cases s i j with ⟨e, f, -, -, k⟩ | k
  · rw [k]; rfl
  · rw [k]

@[simp] theorem countDevice_cfg : (countDevice s).cfg = s.cfg := by rw [countDevice_frame s]
@[simp] theorem countDevice_iso : (countDevice s).iso = s.iso := by rw [countDevice_frame s]
@[simp] theorem countDevice_dec : (countDevice s).dec = s.dec := by rw [countDevice_frame s]
@[simp] theorem countDevice_nic : (countDevice s).nic = s.nic := by rw [countDevice_frame s]
@[simp] theorem countDevice_phase : (countDevice s).phase = s.phase := by rw [countDevice_frame s]
@[simp] theorem countDevice_rx : (countDevice s).rx = s.rx := by rw [countDevice_frame s]
@[simp] theorem countDevice_fl : (countDevice s).fl = s.fl := by rw [countDevice_frame s]
@[simp] theorem countDevice_q : (countDevice s).q = s.q := by rw [countDevice_frame s]
@[simp] theorem countDevice_taken : (countDevice s).taken = s.taken := by rw [countDevice_frame s]
@[simp] theorem countDevice_log : (countDevice s).log = s.log := by rw [countDevice_frame s]
@[simp] theorem countDevice_wr : (countDevice s).wr = s.wr := by rw [countDevice_frame s]
@[simp] theorem countDevice_ctl : (countDevice s).ctl = s.ctl := by rw [countDevice_frame s]
@[simp] theorem countDevice_heap : (countDevice s).heap = s.heap := by rw [countDevice_frame s]
@[simp] theorem countDevice_bus : (countDevice s).bus = s.bus := by rw [countDevice_frame s]

@[simp] theorem countLd_cfg (i : Nat) : (countLd i s).cfg = s.cfg := by rw [countLd_frame s i]
@[simp] theorem countLd_iso (i : Nat) : (countLd i s).iso = s.iso := by rw [countLd_frame s i]
@[simp] theorem countLd_dec (i : Nat) : (countLd i s).dec = s.dec := by rw [countLd_frame s i]
@[simp] theorem countLd_nic (i : Nat) : (countLd i s).nic = s.nic := by rw [countLd_frame s i]
@[simp] theorem countLd_phase (i : Nat) : (countLd i s).phase = s.phase := by rw [countLd_frame s i]
@[simp] theorem countLd_rx (i : Nat) : (countLd i s).rx = s.rx := by rw [countLd_frame s i]
@[simp] theorem countLd_fl (i : Nat) : (countLd i s).fl = s.fl := by rw [countLd_frame s i]
@[simp] theorem countLd_q (i : Nat) : (countLd i s).q = s.q := by rw [countLd_frame s i]
@[simp] theorem countLd_taken (i : Nat) : (countLd i s).taken = s.taken := by rw [countLd_frame s i]
@[simp] theorem countLd_log (i : Nat) : (countLd i s).log = s.log := by rw [countLd_frame s i]
@[simp] theorem countLd_wr (i : Nat) : (countLd i s).wr = s.wr := by rw [countLd_frame s i]
@[simp] theorem countLd_ctl (i : Nat) : (countLd i s).ctl = s.ctl := by rw [countLd_frame s i]
@[simp] theorem countLd_heap (i : Nat) : (countLd i s).heap = s.heap := by rw [countLd_frame s i]
@[simp] theorem countLd_bus (i : Nat) : (countLd i s).bus = s.bus := by rw [countLd_frame s i]

@[simp] theorem countIn_cfg (i j : Nat) : (countIn i j s).cfg = s.cfg := by rw [countIn_frame s i j]
@[simp] theorem countIn_iso (i j : Nat) : (countIn i j s).iso = s.iso := by rw [countIn_frame s i j]
@[simp] theorem countIn_dec (i j : Nat) : (countIn i j s).dec = s.dec := by rw [countIn_frame s i j]
@[simp] theorem countIn_nic (i j : Nat) : (countIn i j s).nic = s.nic := by rw [countIn_frame s i j]
@[simp] theorem countIn_phase (i j : Nat) : (countIn i j s).phase = s.phase := by rw [countIn_frame s i j]
@[simp] theorem countIn_rx (i j : Nat) : (countIn i j s).rx = s.rx := by rw [countIn_frame s i j]
@[simp] theorem countIn_fl (i j : Nat) : (countIn i j s).fl = s.fl := by rw [countIn_frame s i j]
@[simp] theorem countIn_q (i j : Nat) : (countIn i j s).q = s.q := by rw [countIn_frame s i j]
@[simp] theorem countIn_taken (i j : Nat) : (countIn i j s).taken = s.taken := by rw [countIn_frame s i j]
@[simp] theorem countIn_log (i j : Nat) : (countIn i j s).log = s.log := by rw [countIn_frame s i j]
@[simp] theorem countIn_wr (i j : Nat) : (countIn i j s).wr = s.wr := by rw [countIn_frame s i j]
@[simp] theorem countIn_ctl (i j : Nat) : (countIn i j s).ctl = s.ctl := by rw [countIn_frame s i j]
@[simp] theorem countIn_heap (i j : Nat) : (countIn i j s).heap = s.heap := by rw [countIn_frame s i j]
@[simp] theorem countIn_bus (i j : Nat) : (countIn i j s).bus = s.bus := by rw [countIn_frame s i j]

@[simp] theorem clearCsum_cfg : (clearCsum s).cfg = s.cfg := rfl
@[simp] theorem clearCsum_iso : (clearCsum s).iso = s.iso := rfl
@[simp] theorem clearCsum_dev : (clearCsum s).dev = s.dev := rfl
@[simp] theorem clearCsum_fresh : (clearCsum s).fresh = s.fresh := rfl
@[simp] theorem clearCsum_nic : (clearCsum s).nic = s.nic := rfl
@[simp] theorem clearCsum_phase : (clearCsum s).phase = s.phase := rfl
@[simp] theorem clearCsum_rx : (clearCsum s).rx = s.rx := rfl
@[simp] theorem clearCsum_fl : (clearCsum s).fl = s.fl := rfl
@[simp] theorem clearCsum_q : (clearCsum s).q = s.q := rfl
@[simp] theorem clearCsum_taken : (clearCsum s).taken = s.taken := rfl
@[simp] theorem clearCsum_log : (clearCsum s).log = s.log := rfl
@[simp] theorem clearCsum_ctl : (clearCsum s).ctl = s.ctl := rfl
@[simp] theorem clearCsum_heap : (clearCsum s).heap = s.heap := rfl
@[simp] theorem clearCsum_bus : (clearCsum s).bus = s.bus := rfl

@[simp] theorem setCard_cfg (i : Nat) : (setCard i s).cfg = s.cfg := rfl
@[simp] theorem setCard_iso (i : Nat) : (setCard i s).iso = s.iso := rfl
@[simp] theorem setCard_dev (i : Nat) : (setCard i s).dev = s.dev := rfl
@[simp] theorem setCard_fresh (i : Nat) : (setCard i s).fresh = s.fresh := rfl
@[simp] theorem setCard_nic (i : Nat) : (setCard i s).nic = s.nic := rfl
@[simp] theorem setCard_phase (i : Nat) : (setCard i s).phase = s.phase := rfl
@[simp] theorem setCard_rx (i : Nat) : (setCard i s).rx = s.rx := rfl
@[simp] theorem setCard_fl (i : Nat) : (setCard i s).fl = s.fl := rfl
@[simp] theorem setCard_q (i : Nat) : (setCard i s).q = s.q := rfl
@[simp] theorem setCard_taken (i : Nat) : (setCard i s).taken = s.taken := rfl
@[simp] theorem setCard_log (i : Nat) : (setCard i s).log = s.log := rfl
@[simp] theorem setCard_wr (i : Nat) : (setCard i s).wr = s.wr := rfl
@[simp] theorem setCard_ctl (i : Nat) : (setCard i s).ctl = s.ctl := rfl
@[simp] theorem setCard_heap (i : Nat) : (setCard i s).heap = s.heap := rfl
@[simp] theorem setCard_bus (i : Nat) : (setCard i s).bus = s.bus := rfl

@[simp] theorem setIobase_cfg (b : Half) : (setIobase b s).cfg = s.cfg := rfl
@[simp] theorem setIobase_iso (b : Half) : (setIobase b s).iso = s.iso := rfl
@[simp] theorem setIobase_dec (b : Half) : (setIobase b s).dec = s.dec := rfl
@[simp] theorem setIobase_dev (b : Half) : (setIobase b s).dev = s.dev := rfl
@[simp] theorem setIobase_fresh (b : Half) : (setIobase b s).fresh = s.fresh := rfl
@[simp] theorem setIobase_phase (b : Half) : (setIobase b s).phase = s.phase := rfl
@[simp] theorem setIobase_rx (b : Half) : (setIobase b s).rx = s.rx := rfl
@[simp] theorem setIobase_fl (b : Half) : (setIobase b s).fl = s.fl := rfl
@[simp] theorem setIobase_q (b : Half) : (setIobase b s).q = s.q := rfl
@[simp] theorem setIobase_taken (b : Half) : (setIobase b s).taken = s.taken := rfl
@[simp] theorem setIobase_log (b : Half) : (setIobase b s).log = s.log := rfl
@[simp] theorem setIobase_wr (b : Half) : (setIobase b s).wr = s.wr := rfl
@[simp] theorem setIobase_ctl (b : Half) : (setIobase b s).ctl = s.ctl := rfl
@[simp] theorem setIobase_heap (b : Half) : (setIobase b s).heap = s.heap := rfl
@[simp] theorem setIobase_bus (b : Half) : (setIobase b s).bus = s.bus := rfl

@[simp] theorem setQh_cfg : (setQh s).cfg = s.cfg := rfl
@[simp] theorem setQh_iso : (setQh s).iso = s.iso := rfl
@[simp] theorem setQh_dec : (setQh s).dec = s.dec := rfl
@[simp] theorem setQh_dev : (setQh s).dev = s.dev := rfl
@[simp] theorem setQh_fresh : (setQh s).fresh = s.fresh := rfl
@[simp] theorem setQh_phase : (setQh s).phase = s.phase := rfl
@[simp] theorem setQh_rx : (setQh s).rx = s.rx := rfl
@[simp] theorem setQh_fl : (setQh s).fl = s.fl := rfl
@[simp] theorem setQh_q : (setQh s).q = s.q := rfl
@[simp] theorem setQh_taken : (setQh s).taken = s.taken := rfl
@[simp] theorem setQh_log : (setQh s).log = s.log := rfl
@[simp] theorem setQh_wr : (setQh s).wr = s.wr := rfl
@[simp] theorem setQh_ctl : (setQh s).ctl = s.ctl := rfl
@[simp] theorem setQh_heap : (setQh s).heap = s.heap := rfl
@[simp] theorem setQh_bus : (setQh s).bus = s.bus := rfl

@[simp] theorem setProm_cfg (i : Nat) (v : Byte) : (setProm i v s).cfg = s.cfg := rfl
@[simp] theorem setProm_iso (i : Nat) (v : Byte) : (setProm i v s).iso = s.iso := rfl
@[simp] theorem setProm_dec (i : Nat) (v : Byte) : (setProm i v s).dec = s.dec := rfl
@[simp] theorem setProm_dev (i : Nat) (v : Byte) : (setProm i v s).dev = s.dev := rfl
@[simp] theorem setProm_fresh (i : Nat) (v : Byte) : (setProm i v s).fresh = s.fresh := rfl
@[simp] theorem setProm_phase (i : Nat) (v : Byte) : (setProm i v s).phase = s.phase := rfl
@[simp] theorem setProm_rx (i : Nat) (v : Byte) : (setProm i v s).rx = s.rx := rfl
@[simp] theorem setProm_fl (i : Nat) (v : Byte) : (setProm i v s).fl = s.fl := rfl
@[simp] theorem setProm_q (i : Nat) (v : Byte) : (setProm i v s).q = s.q := rfl
@[simp] theorem setProm_taken (i : Nat) (v : Byte) : (setProm i v s).taken = s.taken := rfl
@[simp] theorem setProm_log (i : Nat) (v : Byte) : (setProm i v s).log = s.log := rfl
@[simp] theorem setProm_ctl (i : Nat) (v : Byte) : (setProm i v s).ctl = s.ctl := rfl
@[simp] theorem setProm_heap (i : Nat) (v : Byte) : (setProm i v s).heap = s.heap := rfl
@[simp] theorem setProm_bus (i : Nat) (v : Byte) : (setProm i v s).bus = s.bus := rfl

@[simp] theorem setNextPkt_cfg (v : Byte) : (setNextPkt v s).cfg = s.cfg := rfl
@[simp] theorem setNextPkt_iso (v : Byte) : (setNextPkt v s).iso = s.iso := rfl
@[simp] theorem setNextPkt_dec (v : Byte) : (setNextPkt v s).dec = s.dec := rfl
@[simp] theorem setNextPkt_dev (v : Byte) : (setNextPkt v s).dev = s.dev := rfl
@[simp] theorem setNextPkt_fresh (v : Byte) : (setNextPkt v s).fresh = s.fresh := rfl
@[simp] theorem setNextPkt_phase (v : Byte) : (setNextPkt v s).phase = s.phase := rfl
@[simp] theorem setNextPkt_rx (v : Byte) : (setNextPkt v s).rx = s.rx := rfl
@[simp] theorem setNextPkt_fl (v : Byte) : (setNextPkt v s).fl = s.fl := rfl
@[simp] theorem setNextPkt_q (v : Byte) : (setNextPkt v s).q = s.q := rfl
@[simp] theorem setNextPkt_taken (v : Byte) : (setNextPkt v s).taken = s.taken := rfl
@[simp] theorem setNextPkt_log (v : Byte) : (setNextPkt v s).log = s.log := rfl
@[simp] theorem setNextPkt_ctl (v : Byte) : (setNextPkt v s).ctl = s.ctl := rfl
@[simp] theorem setNextPkt_heap (v : Byte) : (setNextPkt v s).heap = s.heap := rfl
@[simp] theorem setNextPkt_bus (v : Byte) : (setNextPkt v s).bus = s.bus := rfl

@[simp] theorem setHeader_cfg (w0 w1 : Half) : (setHeader w0 w1 s).cfg = s.cfg := rfl
@[simp] theorem setHeader_iso (w0 w1 : Half) : (setHeader w0 w1 s).iso = s.iso := rfl
@[simp] theorem setHeader_dec (w0 w1 : Half) : (setHeader w0 w1 s).dec = s.dec := rfl
@[simp] theorem setHeader_dev (w0 w1 : Half) : (setHeader w0 w1 s).dev = s.dev := rfl
@[simp] theorem setHeader_fresh (w0 w1 : Half) : (setHeader w0 w1 s).fresh = s.fresh := rfl
@[simp] theorem setHeader_nic (w0 w1 : Half) : (setHeader w0 w1 s).nic = s.nic := rfl
@[simp] theorem setHeader_phase (w0 w1 : Half) : (setHeader w0 w1 s).phase = s.phase := rfl
@[simp] theorem setHeader_fl (w0 w1 : Half) : (setHeader w0 w1 s).fl = s.fl := rfl
@[simp] theorem setHeader_q (w0 w1 : Half) : (setHeader w0 w1 s).q = s.q := rfl
@[simp] theorem setHeader_taken (w0 w1 : Half) : (setHeader w0 w1 s).taken = s.taken := rfl
@[simp] theorem setHeader_log (w0 w1 : Half) : (setHeader w0 w1 s).log = s.log := rfl
@[simp] theorem setHeader_ctl (w0 w1 : Half) : (setHeader w0 w1 s).ctl = s.ctl := rfl
@[simp] theorem setHeader_heap (w0 w1 : Half) : (setHeader w0 w1 s).heap = s.heap := rfl
@[simp] theorem setHeader_bus (w0 w1 : Half) : (setHeader w0 w1 s).bus = s.bus := rfl

@[simp] theorem setAddresses_cfg (e : EthHeader) : (setAddresses e s).cfg = s.cfg := rfl
@[simp] theorem setAddresses_iso (e : EthHeader) : (setAddresses e s).iso = s.iso := rfl
@[simp] theorem setAddresses_dec (e : EthHeader) : (setAddresses e s).dec = s.dec := rfl
@[simp] theorem setAddresses_dev (e : EthHeader) : (setAddresses e s).dev = s.dev := rfl
@[simp] theorem setAddresses_fresh (e : EthHeader) : (setAddresses e s).fresh = s.fresh := rfl
@[simp] theorem setAddresses_nic (e : EthHeader) : (setAddresses e s).nic = s.nic := rfl
@[simp] theorem setAddresses_phase (e : EthHeader) : (setAddresses e s).phase = s.phase := rfl
@[simp] theorem setAddresses_fl (e : EthHeader) : (setAddresses e s).fl = s.fl := rfl
@[simp] theorem setAddresses_q (e : EthHeader) : (setAddresses e s).q = s.q := rfl
@[simp] theorem setAddresses_taken (e : EthHeader) : (setAddresses e s).taken = s.taken := rfl
@[simp] theorem setAddresses_log (e : EthHeader) : (setAddresses e s).log = s.log := rfl
@[simp] theorem setAddresses_ctl (e : EthHeader) : (setAddresses e s).ctl = s.ctl := rfl
@[simp] theorem setAddresses_heap (e : EthHeader) : (setAddresses e s).heap = s.heap := rfl
@[simp] theorem setAddresses_bus (e : EthHeader) : (setAddresses e s).bus = s.bus := rfl

@[simp] theorem setIsrseen_cfg (v : Byte) : (setIsrseen v s).cfg = s.cfg := rfl
@[simp] theorem setIsrseen_iso (v : Byte) : (setIsrseen v s).iso = s.iso := rfl
@[simp] theorem setIsrseen_dec (v : Byte) : (setIsrseen v s).dec = s.dec := rfl
@[simp] theorem setIsrseen_dev (v : Byte) : (setIsrseen v s).dev = s.dev := rfl
@[simp] theorem setIsrseen_fresh (v : Byte) : (setIsrseen v s).fresh = s.fresh := rfl
@[simp] theorem setIsrseen_nic (v : Byte) : (setIsrseen v s).nic = s.nic := rfl
@[simp] theorem setIsrseen_phase (v : Byte) : (setIsrseen v s).phase = s.phase := rfl
@[simp] theorem setIsrseen_fl (v : Byte) : (setIsrseen v s).fl = s.fl := rfl
@[simp] theorem setIsrseen_q (v : Byte) : (setIsrseen v s).q = s.q := rfl
@[simp] theorem setIsrseen_taken (v : Byte) : (setIsrseen v s).taken = s.taken := rfl
@[simp] theorem setIsrseen_log (v : Byte) : (setIsrseen v s).log = s.log := rfl
@[simp] theorem setIsrseen_ctl (v : Byte) : (setIsrseen v s).ctl = s.ctl := rfl
@[simp] theorem setIsrseen_heap (v : Byte) : (setIsrseen v s).heap = s.heap := rfl
@[simp] theorem setIsrseen_bus (v : Byte) : (setIsrseen v s).bus = s.bus := rfl

@[simp] theorem advanceNext_cfg : (advanceNext s).cfg = s.cfg := rfl
@[simp] theorem advanceNext_iso : (advanceNext s).iso = s.iso := rfl
@[simp] theorem advanceNext_dec : (advanceNext s).dec = s.dec := rfl
@[simp] theorem advanceNext_dev : (advanceNext s).dev = s.dev := rfl
@[simp] theorem advanceNext_fresh : (advanceNext s).fresh = s.fresh := rfl
@[simp] theorem advanceNext_phase : (advanceNext s).phase = s.phase := rfl
@[simp] theorem advanceNext_rx : (advanceNext s).rx = s.rx := rfl
@[simp] theorem advanceNext_fl : (advanceNext s).fl = s.fl := rfl
@[simp] theorem advanceNext_q : (advanceNext s).q = s.q := rfl
@[simp] theorem advanceNext_taken : (advanceNext s).taken = s.taken := rfl
@[simp] theorem advanceNext_log : (advanceNext s).log = s.log := rfl
@[simp] theorem advanceNext_ctl : (advanceNext s).ctl = s.ctl := rfl
@[simp] theorem advanceNext_heap : (advanceNext s).heap = s.heap := rfl
@[simp] theorem advanceNext_bus : (advanceNext s).bus = s.bus := rfl

@[simp] theorem appendQ_cfg (fs : List Frame) : (appendQ fs s).cfg = s.cfg := rfl
@[simp] theorem appendQ_iso (fs : List Frame) : (appendQ fs s).iso = s.iso := rfl
@[simp] theorem appendQ_dec (fs : List Frame) : (appendQ fs s).dec = s.dec := rfl
@[simp] theorem appendQ_dev (fs : List Frame) : (appendQ fs s).dev = s.dev := rfl
@[simp] theorem appendQ_fresh (fs : List Frame) : (appendQ fs s).fresh = s.fresh := rfl
@[simp] theorem appendQ_nic (fs : List Frame) : (appendQ fs s).nic = s.nic := rfl
@[simp] theorem appendQ_phase (fs : List Frame) : (appendQ fs s).phase = s.phase := rfl
@[simp] theorem appendQ_rx (fs : List Frame) : (appendQ fs s).rx = s.rx := rfl
@[simp] theorem appendQ_fl (fs : List Frame) : (appendQ fs s).fl = s.fl := rfl
@[simp] theorem appendQ_taken (fs : List Frame) : (appendQ fs s).taken = s.taken := rfl
@[simp] theorem appendQ_log (fs : List Frame) : (appendQ fs s).log = s.log := rfl
@[simp] theorem appendQ_wr (fs : List Frame) : (appendQ fs s).wr = s.wr := rfl
@[simp] theorem appendQ_ctl (fs : List Frame) : (appendQ fs s).ctl = s.ctl := rfl
@[simp] theorem appendQ_heap (fs : List Frame) : (appendQ fs s).heap = s.heap := rfl
@[simp] theorem appendQ_bus (fs : List Frame) : (appendQ fs s).bus = s.bus := rfl

@[simp] theorem dequeueBody_cfg : (dequeueBody s).cfg = s.cfg := by
  unfold dequeueBody; try dsimp only
  split <;> rfl
@[simp] theorem dequeueBody_iso : (dequeueBody s).iso = s.iso := by
  unfold dequeueBody; try dsimp only
  split <;> rfl
@[simp] theorem dequeueBody_dec : (dequeueBody s).dec = s.dec := by
  unfold dequeueBody; try dsimp only
  split <;> rfl
@[simp] theorem dequeueBody_dev : (dequeueBody s).dev = s.dev := by
  unfold dequeueBody; try dsimp only
  split <;> rfl
@[simp] theorem dequeueBody_fresh : (dequeueBody s).fresh = s.fresh := by
  unfold dequeueBody; try dsimp only
  split <;> rfl
@[simp] theorem dequeueBody_nic : (dequeueBody s).nic = s.nic := by
  unfold dequeueBody; try dsimp only
  split <;> rfl
@[simp] theorem dequeueBody_phase : (dequeueBody s).phase = s.phase := by
  unfold dequeueBody; try dsimp only
  split <;> rfl
@[simp] theorem dequeueBody_rx : (dequeueBody s).rx = s.rx := by
  unfold dequeueBody; try dsimp only
  split <;> rfl
@[simp] theorem dequeueBody_fl : (dequeueBody s).fl = s.fl := by
  unfold dequeueBody; try dsimp only
  split <;> rfl
@[simp] theorem dequeueBody_log : (dequeueBody s).log = s.log := by
  unfold dequeueBody; try dsimp only
  split <;> rfl
@[simp] theorem dequeueBody_wr : (dequeueBody s).wr = s.wr := by
  unfold dequeueBody; try dsimp only
  split <;> rfl
@[simp] theorem dequeueBody_heap : (dequeueBody s).heap = s.heap := by
  unfold dequeueBody; try dsimp only
  split <;> rfl
@[simp] theorem dequeueBody_bus : (dequeueBody s).bus = s.bus := by
  unfold dequeueBody; try dsimp only
  split <;> rfl

@[simp] theorem assignIo_cfg (i j k : Nat) (b : Half) : (assignIo i j k b s).cfg = s.cfg := rfl
@[simp] theorem assignIo_iso (i j k : Nat) (b : Half) : (assignIo i j k b s).iso = s.iso := rfl
@[simp] theorem assignIo_dec (i j k : Nat) (b : Half) : (assignIo i j k b s).dec = s.dec := rfl
@[simp] theorem assignIo_fresh (i j k : Nat) (b : Half) : (assignIo i j k b s).fresh = s.fresh := rfl
@[simp] theorem assignIo_nic (i j k : Nat) (b : Half) : (assignIo i j k b s).nic = s.nic := rfl
@[simp] theorem assignIo_phase (i j k : Nat) (b : Half) : (assignIo i j k b s).phase = s.phase := rfl
@[simp] theorem assignIo_rx (i j k : Nat) (b : Half) : (assignIo i j k b s).rx = s.rx := rfl
@[simp] theorem assignIo_fl (i j k : Nat) (b : Half) : (assignIo i j k b s).fl = s.fl := rfl
@[simp] theorem assignIo_q (i j k : Nat) (b : Half) : (assignIo i j k b s).q = s.q := rfl
@[simp] theorem assignIo_taken (i j k : Nat) (b : Half) : (assignIo i j k b s).taken = s.taken := rfl
@[simp] theorem assignIo_log (i j k : Nat) (b : Half) : (assignIo i j k b s).log = s.log := rfl
@[simp] theorem assignIo_wr (i j k : Nat) (b : Half) : (assignIo i j k b s).wr = s.wr := rfl
@[simp] theorem assignIo_heap (i j k : Nat) (b : Half) : (assignIo i j k b s).heap = s.heap := rfl
@[simp] theorem assignIo_bus (i j k : Nat) (b : Half) : (assignIo i j k b s).bus = s.bus := rfl

@[simp] theorem assignIrq_cfg (i j : Nat) (r : IrqRes) : (assignIrq i j r s).cfg = s.cfg := rfl
@[simp] theorem assignIrq_iso (i j : Nat) (r : IrqRes) : (assignIrq i j r s).iso = s.iso := rfl
@[simp] theorem assignIrq_dec (i j : Nat) (r : IrqRes) : (assignIrq i j r s).dec = s.dec := rfl
@[simp] theorem assignIrq_fresh (i j : Nat) (r : IrqRes) : (assignIrq i j r s).fresh = s.fresh := rfl
@[simp] theorem assignIrq_nic (i j : Nat) (r : IrqRes) : (assignIrq i j r s).nic = s.nic := rfl
@[simp] theorem assignIrq_phase (i j : Nat) (r : IrqRes) : (assignIrq i j r s).phase = s.phase := rfl
@[simp] theorem assignIrq_rx (i j : Nat) (r : IrqRes) : (assignIrq i j r s).rx = s.rx := rfl
@[simp] theorem assignIrq_fl (i j : Nat) (r : IrqRes) : (assignIrq i j r s).fl = s.fl := rfl
@[simp] theorem assignIrq_q (i j : Nat) (r : IrqRes) : (assignIrq i j r s).q = s.q := rfl
@[simp] theorem assignIrq_taken (i j : Nat) (r : IrqRes) : (assignIrq i j r s).taken = s.taken := rfl
@[simp] theorem assignIrq_log (i j : Nat) (r : IrqRes) : (assignIrq i j r s).log = s.log := rfl
@[simp] theorem assignIrq_wr (i j : Nat) (r : IrqRes) : (assignIrq i j r s).wr = s.wr := rfl
@[simp] theorem assignIrq_heap (i j : Nat) (r : IrqRes) : (assignIrq i j r s).heap = s.heap := rfl
@[simp] theorem assignIrq_bus (i j : Nat) (r : IrqRes) : (assignIrq i j r s).bus = s.bus := rfl

@[simp] theorem drawn_cfg : (drawn s).cfg = s.cfg := rfl
@[simp] theorem drawn_iso : (drawn s).iso = s.iso := rfl
@[simp] theorem drawn_dec : (drawn s).dec = s.dec := rfl
@[simp] theorem drawn_dev : (drawn s).dev = s.dev := rfl
@[simp] theorem drawn_fresh : (drawn s).fresh = s.fresh := rfl
@[simp] theorem drawn_nic : (drawn s).nic = s.nic := rfl
@[simp] theorem drawn_phase : (drawn s).phase = s.phase := rfl
@[simp] theorem drawn_rx : (drawn s).rx = s.rx := rfl
@[simp] theorem drawn_fl : (drawn s).fl = s.fl := rfl
@[simp] theorem drawn_q : (drawn s).q = s.q := rfl
@[simp] theorem drawn_taken : (drawn s).taken = s.taken := rfl
@[simp] theorem drawn_log : (drawn s).log = s.log := rfl
@[simp] theorem drawn_wr : (drawn s).wr = s.wr := rfl
@[simp] theorem drawn_ctl : (drawn s).ctl = s.ctl := rfl
@[simp] theorem drawn_heap : (drawn s).heap = s.heap := rfl

@[simp] theorem readDevice_cfg (i : Nat) : ((readDevice i s).2).cfg = s.cfg := by
  unfold readDevice; try dsimp only
  split <;> rfl
@[simp] theorem readDevice_iso (i : Nat) : ((readDevice i s).2).iso = s.iso := by
  unfold readDevice; try dsimp only
  split <;> rfl
@[simp] theorem readDevice_dec (i : Nat) : ((readDevice i s).2).dec = s.dec := by
  unfold readDevice; try dsimp only
  split <;> rfl
@[simp] theorem readDevice_dev (i : Nat) : ((readDevice i s).2).dev = s.dev := by
  unfold readDevice; try dsimp only
  split <;> rfl
@[simp] theorem readDevice_fresh (i : Nat) : ((readDevice i s).2).fresh = s.fresh := by
  unfold readDevice; try dsimp only
  split <;> rfl
@[simp] theorem readDevice_nic (i : Nat) : ((readDevice i s).2).nic = s.nic := by
  unfold readDevice; try dsimp only
  split <;> rfl
@[simp] theorem readDevice_phase (i : Nat) : ((readDevice i s).2).phase = s.phase := by
  unfold readDevice; try dsimp only
  split <;> rfl
@[simp] theorem readDevice_rx (i : Nat) : ((readDevice i s).2).rx = s.rx := by
  unfold readDevice; try dsimp only
  split <;> rfl
@[simp] theorem readDevice_fl (i : Nat) : ((readDevice i s).2).fl = s.fl := by
  unfold readDevice; try dsimp only
  split <;> rfl
@[simp] theorem readDevice_q (i : Nat) : ((readDevice i s).2).q = s.q := by
  unfold readDevice; try dsimp only
  split <;> rfl
@[simp] theorem readDevice_taken (i : Nat) : ((readDevice i s).2).taken = s.taken := by
  unfold readDevice; try dsimp only
  split <;> rfl
@[simp] theorem readDevice_log (i : Nat) : ((readDevice i s).2).log = s.log := by
  unfold readDevice; try dsimp only
  split <;> rfl
@[simp] theorem readDevice_wr (i : Nat) : ((readDevice i s).2).wr = s.wr := by
  unfold readDevice; try dsimp only
  split <;> rfl
@[simp] theorem readDevice_ctl (i : Nat) : ((readDevice i s).2).ctl = s.ctl := by
  unfold readDevice; try dsimp only
  split <;> rfl
@[simp] theorem readDevice_heap (i : Nat) : ((readDevice i s).2).heap = s.heap := by
  unfold readDevice; try dsimp only
  split <;> rfl

@[simp] theorem readLd_cfg (i j : Nat) : ((readLd i j s).2).cfg = s.cfg := by
  unfold readLd; try dsimp only
  split <;> rfl
@[simp] theorem readLd_iso (i j : Nat) : ((readLd i j s).2).iso = s.iso := by
  unfold readLd; try dsimp only
  split <;> rfl
@[simp] theorem readLd_dec (i j : Nat) : ((readLd i j s).2).dec = s.dec := by
  unfold readLd; try dsimp only
  split <;> rfl
@[simp] theorem readLd_dev (i j : Nat) : ((readLd i j s).2).dev = s.dev := by
  unfold readLd; try dsimp only
  split <;> rfl
@[simp] theorem readLd_fresh (i j : Nat) : ((readLd i j s).2).fresh = s.fresh := by
  unfold readLd; try dsimp only
  split <;> rfl
@[simp] theorem readLd_nic (i j : Nat) : ((readLd i j s).2).nic = s.nic := by
  unfold readLd; try dsimp only
  split <;> rfl
@[simp] theorem readLd_phase (i j : Nat) : ((readLd i j s).2).phase = s.phase := by
  unfold readLd; try dsimp only
  split <;> rfl
@[simp] theorem readLd_rx (i j : Nat) : ((readLd i j s).2).rx = s.rx := by
  unfold readLd; try dsimp only
  split <;> rfl
@[simp] theorem readLd_fl (i j : Nat) : ((readLd i j s).2).fl = s.fl := by
  unfold readLd; try dsimp only
  split <;> rfl
@[simp] theorem readLd_q (i j : Nat) : ((readLd i j s).2).q = s.q := by
  unfold readLd; try dsimp only
  split <;> rfl
@[simp] theorem readLd_taken (i j : Nat) : ((readLd i j s).2).taken = s.taken := by
  unfold readLd; try dsimp only
  split <;> rfl
@[simp] theorem readLd_log (i j : Nat) : ((readLd i j s).2).log = s.log := by
  unfold readLd; try dsimp only
  split <;> rfl
@[simp] theorem readLd_wr (i j : Nat) : ((readLd i j s).2).wr = s.wr := by
  unfold readLd; try dsimp only
  split <;> rfl
@[simp] theorem readLd_ctl (i j : Nat) : ((readLd i j s).2).ctl = s.ctl := by
  unfold readLd; try dsimp only
  split <;> rfl
@[simp] theorem readLd_heap (i j : Nat) : ((readLd i j s).2).heap = s.heap := by
  unfold readLd; try dsimp only
  split <;> rfl

@[simp] theorem readIo_cfg (i j k : Nat) : ((readIo i j k s).2).cfg = s.cfg := by
  unfold readIo; try dsimp only
  split <;> rfl
@[simp] theorem readIo_iso (i j k : Nat) : ((readIo i j k s).2).iso = s.iso := by
  unfold readIo; try dsimp only
  split <;> rfl
@[simp] theorem readIo_dec (i j k : Nat) : ((readIo i j k s).2).dec = s.dec := by
  unfold readIo; try dsimp only
  split <;> rfl
@[simp] theorem readIo_dev (i j k : Nat) : ((readIo i j k s).2).dev = s.dev := by
  unfold readIo; try dsimp only
  split <;> rfl
@[simp] theorem readIo_fresh (i j k : Nat) : ((readIo i j k s).2).fresh = s.fresh := by
  unfold readIo; try dsimp only
  split <;> rfl
@[simp] theorem readIo_nic (i j k : Nat) : ((readIo i j k s).2).nic = s.nic := by
  unfold readIo; try dsimp only
  split <;> rfl
@[simp] theorem readIo_phase (i j k : Nat) : ((readIo i j k s).2).phase = s.phase := by
  unfold readIo; try dsimp only
  split <;> rfl
@[simp] theorem readIo_rx (i j k : Nat) : ((readIo i j k s).2).rx = s.rx := by
  unfold readIo; try dsimp only
  split <;> rfl
@[simp] theorem readIo_fl (i j k : Nat) : ((readIo i j k s).2).fl = s.fl := by
  unfold readIo; try dsimp only
  split <;> rfl
@[simp] theorem readIo_q (i j k : Nat) : ((readIo i j k s).2).q = s.q := by
  unfold readIo; try dsimp only
  split <;> rfl
@[simp] theorem readIo_taken (i j k : Nat) : ((readIo i j k s).2).taken = s.taken := by
  unfold readIo; try dsimp only
  split <;> rfl
@[simp] theorem readIo_log (i j k : Nat) : ((readIo i j k s).2).log = s.log := by
  unfold readIo; try dsimp only
  split <;> rfl
@[simp] theorem readIo_wr (i j k : Nat) : ((readIo i j k s).2).wr = s.wr := by
  unfold readIo; try dsimp only
  split <;> rfl
@[simp] theorem readIo_ctl (i j k : Nat) : ((readIo i j k s).2).ctl = s.ctl := by
  unfold readIo; try dsimp only
  split <;> rfl
@[simp] theorem readIo_heap (i j k : Nat) : ((readIo i j k s).2).heap = s.heap := by
  unfold readIo; try dsimp only
  split <;> rfl

@[simp] theorem readFr_cfg : (readFr s).2.cfg = s.cfg := by
  unfold readFr; split <;> rfl
@[simp] theorem readFilledFr_cfg : (readFilledFr s).2.cfg = s.cfg := by
  unfold readFilledFr; dsimp only; split <;> simp [drawn]
@[simp] theorem readFr_iso : (readFr s).2.iso = s.iso := by
  unfold readFr; split <;> rfl
@[simp] theorem readFilledFr_iso : (readFilledFr s).2.iso = s.iso := by
  unfold readFilledFr; dsimp only; split <;> simp [drawn]
@[simp] theorem readFr_dec : (readFr s).2.dec = s.dec := by
  unfold readFr; split <;> rfl
@[simp] theorem readFilledFr_dec : (readFilledFr s).2.dec = s.dec := by
  unfold readFilledFr; dsimp only; split <;> simp [drawn]
@[simp] theorem readFr_dev : (readFr s).2.dev = s.dev := by
  unfold readFr; split <;> rfl
@[simp] theorem readFr_fresh : (readFr s).2.fresh = s.fresh := by
  unfold readFr; split <;> rfl
@[simp] theorem readFilledFr_dev : (readFilledFr s).2.dev = s.dev := by
  unfold readFilledFr; dsimp only; split <;> simp [drawn]
@[simp] theorem readFilledFr_fresh : (readFilledFr s).2.fresh = s.fresh := by
  unfold readFilledFr; dsimp only; split <;> simp [drawn]
@[simp] theorem readFr_nic : (readFr s).2.nic = s.nic := by
  unfold readFr; split <;> rfl
@[simp] theorem readFilledFr_nic : (readFilledFr s).2.nic = s.nic := by
  unfold readFilledFr; dsimp only; split <;> simp [drawn]
@[simp] theorem readFr_phase : (readFr s).2.phase = s.phase := by
  unfold readFr; split <;> rfl
@[simp] theorem readFilledFr_phase : (readFilledFr s).2.phase = s.phase := by
  unfold readFilledFr; dsimp only; split <;> simp [drawn]
@[simp] theorem readFr_rx : (readFr s).2.rx = s.rx := by
  unfold readFr; split <;> rfl
@[simp] theorem readFilledFr_rx : (readFilledFr s).2.rx = s.rx := by
  unfold readFilledFr; dsimp only; split <;> simp [drawn]
@[simp] theorem readFr_fl : (readFr s).2.fl = s.fl := by
  unfold readFr; split <;> rfl
@[simp] theorem readFilledFr_fl : (readFilledFr s).2.fl = s.fl := by
  unfold readFilledFr; dsimp only; split <;> simp [drawn]
@[simp] theorem readFr_q : (readFr s).2.q = s.q := by
  unfold readFr; split <;> rfl
@[simp] theorem readFilledFr_q : (readFilledFr s).2.q = s.q := by
  unfold readFilledFr; dsimp only; split <;> simp [drawn]
@[simp] theorem readFr_taken : (readFr s).2.taken = s.taken := by
  unfold readFr; split <;> rfl
@[simp] theorem readFilledFr_taken : (readFilledFr s).2.taken = s.taken := by
  unfold readFilledFr; dsimp only; split <;> simp [drawn]
@[simp] theorem readFr_log : (readFr s).2.log = s.log := by
  unfold readFr; split <;> rfl
@[simp] theorem readFilledFr_log : (readFilledFr s).2.log = s.log := by
  unfold readFilledFr; dsimp only; split <;> simp [drawn]
@[simp] theorem readFr_wr : (readFr s).2.wr = s.wr := by
  unfold readFr; split <;> rfl
@[simp] theorem readFilledFr_wr : (readFilledFr s).2.wr = s.wr := by
  unfold readFilledFr; dsimp only; split <;> simp [drawn]
@[simp] theorem readFr_ctl : (readFr s).2.ctl = s.ctl := by
  unfold readFr; split <;> rfl
@[simp] theorem readFilledFr_ctl : (readFilledFr s).2.ctl = s.ctl := by
  unfold readFilledFr; dsimp only; split <;> simp [drawn]
@[simp] theorem readFr_heap : (readFr s).2.heap = s.heap := by
  unfold readFr; split <;> rfl
@[simp] theorem readFilledFr_heap : (readFilledFr s).2.heap = s.heap := by
  unfold readFilledFr; dsimp only; split <;> simp [drawn]

@[simp] theorem suspendAs_cfg (t : Task) : (suspendAs t s).cfg = s.cfg := rfl
@[simp] theorem suspendAs_iso (t : Task) : (suspendAs t s).iso = s.iso := rfl
@[simp] theorem suspendAs_dec (t : Task) : (suspendAs t s).dec = s.dec := rfl
@[simp] theorem suspendAs_dev (t : Task) : (suspendAs t s).dev = s.dev := rfl
@[simp] theorem suspendAs_fresh (t : Task) : (suspendAs t s).fresh = s.fresh := rfl
@[simp] theorem suspendAs_nic (t : Task) : (suspendAs t s).nic = s.nic := rfl
@[simp] theorem suspendAs_phase (t : Task) : (suspendAs t s).phase = s.phase := rfl
@[simp] theorem suspendAs_rx (t : Task) : (suspendAs t s).rx = s.rx := rfl
@[simp] theorem suspendAs_fl (t : Task) : (suspendAs t s).fl = s.fl := rfl
@[simp] theorem suspendAs_q (t : Task) : (suspendAs t s).q = s.q := rfl
@[simp] theorem suspendAs_taken (t : Task) : (suspendAs t s).taken = s.taken := rfl
@[simp] theorem suspendAs_log (t : Task) : (suspendAs t s).log = s.log := rfl
@[simp] theorem suspendAs_wr (t : Task) : (suspendAs t s).wr = s.wr := rfl
@[simp] theorem suspendAs_heap (t : Task) : (suspendAs t s).heap = s.heap := rfl
@[simp] theorem suspendAs_bus (t : Task) : (suspendAs t s).bus = s.bus := rfl

@[simp] theorem allocate_cfg (n : Nat) : ((allocate n s).2).cfg = s.cfg := by
  unfold allocate; try dsimp only
  split <;> rfl
@[simp] theorem allocate_iso (n : Nat) : ((allocate n s).2).iso = s.iso := by
  unfold allocate; try dsimp only
  split <;> rfl
@[simp] theorem allocate_dec (n : Nat) : ((allocate n s).2).dec = s.dec := by
  unfold allocate; try dsimp only
  split <;> rfl
@[simp] theorem allocate_dev (n : Nat) : ((allocate n s).2).dev = s.dev := by
  unfold allocate; try dsimp only
  split <;> rfl
@[simp] theorem allocate_fresh (n : Nat) : ((allocate n s).2).fresh = s.fresh := by
  unfold allocate; try dsimp only
  split <;> rfl
@[simp] theorem allocate_nic (n : Nat) : ((allocate n s).2).nic = s.nic := by
  unfold allocate; try dsimp only
  split <;> rfl
@[simp] theorem allocate_phase (n : Nat) : ((allocate n s).2).phase = s.phase := by
  unfold allocate; try dsimp only
  split <;> rfl
@[simp] theorem allocate_rx (n : Nat) : ((allocate n s).2).rx = s.rx := by
  unfold allocate; try dsimp only
  split <;> rfl
@[simp] theorem allocate_fl (n : Nat) : ((allocate n s).2).fl = s.fl := by
  unfold allocate; try dsimp only
  split <;> rfl
@[simp] theorem allocate_q (n : Nat) : ((allocate n s).2).q = s.q := by
  unfold allocate; try dsimp only
  split <;> rfl
@[simp] theorem allocate_taken (n : Nat) : ((allocate n s).2).taken = s.taken := by
  unfold allocate; try dsimp only
  split <;> rfl
@[simp] theorem allocate_log (n : Nat) : ((allocate n s).2).log = s.log := by
  unfold allocate; try dsimp only
  split <;> rfl
@[simp] theorem allocate_wr (n : Nat) : ((allocate n s).2).wr = s.wr := by
  unfold allocate; try dsimp only
  split <;> rfl
@[simp] theorem allocate_ctl (n : Nat) : ((allocate n s).2).ctl = s.ctl := by
  unfold allocate; try dsimp only
  split <;> rfl

@[simp] theorem release_cfg (h : Nat) : (release h s).cfg = s.cfg := rfl
@[simp] theorem release_iso (h : Nat) : (release h s).iso = s.iso := rfl
@[simp] theorem release_dec (h : Nat) : (release h s).dec = s.dec := rfl
@[simp] theorem release_dev (h : Nat) : (release h s).dev = s.dev := rfl
@[simp] theorem release_fresh (h : Nat) : (release h s).fresh = s.fresh := rfl
@[simp] theorem release_nic (h : Nat) : (release h s).nic = s.nic := rfl
@[simp] theorem release_phase (h : Nat) : (release h s).phase = s.phase := rfl
@[simp] theorem release_rx (h : Nat) : (release h s).rx = s.rx := rfl
@[simp] theorem release_fl (h : Nat) : (release h s).fl = s.fl := rfl
@[simp] theorem release_q (h : Nat) : (release h s).q = s.q := rfl
@[simp] theorem release_taken (h : Nat) : (release h s).taken = s.taken := rfl
@[simp] theorem release_log (h : Nat) : (release h s).log = s.log := rfl
@[simp] theorem release_wr (h : Nat) : (release h s).wr = s.wr := rfl
@[simp] theorem release_ctl (h : Nat) : (release h s).ctl = s.ctl := rfl

@[simp] theorem takeInterrupt_cfg : (takeInterrupt s).cfg = s.cfg := rfl
@[simp] theorem takeInterrupt_iso : (takeInterrupt s).iso = s.iso := rfl
@[simp] theorem takeInterrupt_dec : (takeInterrupt s).dec = s.dec := rfl
@[simp] theorem takeInterrupt_dev : (takeInterrupt s).dev = s.dev := rfl
@[simp] theorem takeInterrupt_fresh : (takeInterrupt s).fresh = s.fresh := rfl
@[simp] theorem takeInterrupt_nic : (takeInterrupt s).nic = s.nic := rfl
@[simp] theorem takeInterrupt_phase : (takeInterrupt s).phase = s.phase := rfl
@[simp] theorem takeInterrupt_q : (takeInterrupt s).q = s.q := rfl
@[simp] theorem takeInterrupt_taken : (takeInterrupt s).taken = s.taken := rfl
@[simp] theorem takeInterrupt_log : (takeInterrupt s).log = s.log := rfl
@[simp] theorem takeInterrupt_heap : (takeInterrupt s).heap = s.heap := rfl
@[simp] theorem takeInterrupt_bus : (takeInterrupt s).bus = s.bus := rfl

@[simp] theorem returnFromInterrupt_cfg : (returnFromInterrupt s).cfg = s.cfg := rfl
@[simp] theorem returnFromInterrupt_iso : (returnFromInterrupt s).iso = s.iso := rfl
@[simp] theorem returnFromInterrupt_dec : (returnFromInterrupt s).dec = s.dec := rfl
@[simp] theorem returnFromInterrupt_dev : (returnFromInterrupt s).dev = s.dev := rfl
@[simp] theorem returnFromInterrupt_fresh : (returnFromInterrupt s).fresh = s.fresh := rfl
@[simp] theorem returnFromInterrupt_nic : (returnFromInterrupt s).nic = s.nic := rfl
@[simp] theorem returnFromInterrupt_phase : (returnFromInterrupt s).phase = s.phase := rfl
@[simp] theorem returnFromInterrupt_rx : (returnFromInterrupt s).rx = s.rx := rfl
@[simp] theorem returnFromInterrupt_q : (returnFromInterrupt s).q = s.q := rfl
@[simp] theorem returnFromInterrupt_taken : (returnFromInterrupt s).taken = s.taken := rfl
@[simp] theorem returnFromInterrupt_log : (returnFromInterrupt s).log = s.log := rfl
@[simp] theorem returnFromInterrupt_wr : (returnFromInterrupt s).wr = s.wr := rfl
@[simp] theorem returnFromInterrupt_heap : (returnFromInterrupt s).heap = s.heap := rfl
@[simp] theorem returnFromInterrupt_bus : (returnFromInterrupt s).bus = s.bus := rfl

@[simp] theorem idle_cfg : (idle s).cfg = s.cfg := rfl
@[simp] theorem idle_iso : (idle s).iso = s.iso := rfl
@[simp] theorem idle_dec : (idle s).dec = s.dec := rfl
@[simp] theorem idle_dev : (idle s).dev = s.dev := rfl
@[simp] theorem idle_fresh : (idle s).fresh = s.fresh := rfl
@[simp] theorem idle_nic : (idle s).nic = s.nic := rfl
@[simp] theorem idle_phase : (idle s).phase = s.phase := rfl
@[simp] theorem idle_rx : (idle s).rx = s.rx := rfl
@[simp] theorem idle_fl : (idle s).fl = s.fl := rfl
@[simp] theorem idle_q : (idle s).q = s.q := rfl
@[simp] theorem idle_taken : (idle s).taken = s.taken := rfl
@[simp] theorem idle_log : (idle s).log = s.log := rfl
@[simp] theorem idle_wr : (idle s).wr = s.wr := rfl
@[simp] theorem idle_ctl : (idle s).ctl = s.ctl := rfl
@[simp] theorem idle_heap : (idle s).heap = s.heap := rfl

@[simp] theorem setPhase_phase (p : Phase) : (setPhase p s).phase = p := rfl
@[simp] theorem logFailure_log (f : Failure) : (logFailure f s).log = s.log ++ [f] := rfl
@[simp] theorem setIf_fl (b : Bool) : (setIf b s).fl = { s.fl with ifl := b } := rfl
@[simp] theorem setLineMasked_fl (b : Bool) : (setLineMasked b s).fl = { s.fl with lineMasked := b } := rfl
@[simp] theorem setHandler_fl : (setHandler s).fl = { s.fl with handlerSet := true } := rfl
@[simp] theorem setHalted_fl (b : Bool) : (setHalted b s).fl = { s.fl with halted := b } := rfl
@[simp] theorem setKeySent_iso : (setKeySent s).iso = { s.iso with keySent := true } := rfl
@[simp] theorem setLfsr_iso (v : Byte) : (setLfsr v s).iso = { s.iso with lfsr := v } := rfl
@[simp] theorem setBound_nic : (setBound s).nic = { s.nic with bound := true } := rfl
@[simp] theorem setPage_nic (p : Option RegPage) : (setPage p s).nic = { s.nic with page := p } := rfl
@[simp] theorem shiftLfsr_iso (b : Bool) : (shiftLfsr b s).iso = { s.iso with lfsr := lfsrShift s.iso.lfsr b } := rfl
@[simp] theorem setId_iso (v : BitVec 72) : (setId v s).iso = { s.iso with id := v } := rfl
@[simp] theorem setId_wr (v : BitVec 72) : (setId v s).wr = { s.wr with id := true } := rfl
@[simp] theorem setBitcnt_iso (n : BitVec 7) : (setBitcnt n s).iso = { s.iso with bitcnt := n } := rfl
@[simp] theorem setRdpReg_iso (p : Half) : (setRdpReg p s).iso = { s.iso with rdp := p } := rfl
@[simp] theorem setRdpReg_wr (p : Half) : (setRdpReg p s).wr = { s.wr with rdp := true } := rfl
@[simp] theorem clearCsum_dec : (clearCsum s).dec = { s.dec with csum := 0 } := rfl
@[simp] theorem clearCsum_wr : (clearCsum s).wr = { s.wr with csum := true } := rfl
@[simp] theorem setCard_dec (i : Nat) : (setCard i s).dec = { s.dec with card := some i } := rfl
@[simp] theorem setIobase_nic (b : Half) : (setIobase b s).nic = { s.nic with iobase := b } := rfl
@[simp] theorem setQh_nic : (setQh s).nic = { s.nic with qh := .queueQ } := rfl
@[simp] theorem setProm_nic (i : Nat) (v : Byte) :
    (setProm i v s).nic = { s.nic with prom := s.nic.prom.set i v } := rfl
@[simp] theorem setProm_wr (i : Nat) (v : Byte) : (setProm i v s).wr = { s.wr with prom := true } := rfl
@[simp] theorem setNextPkt_nic (v : Byte) : (setNextPkt v s).nic = { s.nic with nextPkt := v } := rfl
@[simp] theorem setNextPkt_wr (v : Byte) : (setNextPkt v s).wr = { s.wr with nextPkt := true } := rfl
@[simp] theorem setHeader_rx (w0 w1 : Half) :
    (setHeader w0 w1 s).rx = { s.rx with hdrStatus := lo w0, hdrNext := hi w0, hdrTotal := w1 } := rfl
@[simp] theorem setHeader_wr (w0 w1 : Half) : (setHeader w0 w1 s).wr = { s.wr with hdr := true } := rfl
@[simp] theorem setAddresses_rx (e : EthHeader) :
    (setAddresses e s).rx =
      { s.rx with etype := e.ethertype, fr := s.rx.fr.map fun f => { f with eth := some e } } := rfl
@[simp] theorem setAddresses_wr (e : EthHeader) : (setAddresses e s).wr = { s.wr with etype := true } := rfl
@[simp] theorem setIsrseen_rx (v : Byte) : (setIsrseen v s).rx = { s.rx with isrseen := v } := rfl
@[simp] theorem setIsrseen_wr (v : Byte) : (setIsrseen v s).wr = { s.wr with isrseen := true } := rfl
@[simp] theorem advanceNext_nic : (advanceNext s).nic = { s.nic with nextPkt := s.rx.hdrNext } := rfl
@[simp] theorem advanceNext_wr : (advanceNext s).wr = { s.wr with nextPkt := true } := rfl
@[simp] theorem appendQ_q (fs : List Frame) : (appendQ fs s).q = s.q ++ fs := rfl
@[simp] theorem suspendAs_inIrq (t : Task) : (suspendAs t s).ctl.inIrq = s.ctl.inIrq := rfl
@[simp] theorem suspendAs_todo (t : Task) : (suspendAs t s).ctl.main.todo = t :: s.ctl.main.todo := rfl
@[simp] theorem setCurld_dec (c : CurLd) : (setCurld c s).dec = { s.dec with curld := c } := rfl
@[simp] theorem setCurld_wr (c : CurLd) : (setCurld c s).wr = { s.wr with curld := true } := rfl
@[simp] theorem setIocfg_dec (v : Byte) : (setIocfg v s).dec = { s.dec with iocfg := v } := rfl
@[simp] theorem setIrqcfg_dec (v : Byte) : (setIrqcfg v s).dec = { s.dec with irqcfg := v } := rfl
@[simp] theorem addCsum_dec (b : Byte) : (addCsum b s).dec = { s.dec with csum := s.dec.csum + b } := rfl
@[simp] theorem setFr_rx (r : Option FrameRec) : (setFr r s).rx = { s.rx with fr := r } := rfl
@[simp] theorem setFr_wr (r : Option FrameRec) : (setFr r s).wr = { s.wr with fr := true } := rfl
@[simp] theorem modCrd_dev (i : Nat) (f : Crd → Crd) :
    (modCrd i f s).dev = s.dev.modify i fun d => { d with crd := f d.crd } := rfl
@[simp] theorem setFresh_fresh (e : Entry) : (setFresh e s).fresh = some e := rfl
@[simp] theorem modFresh_fresh (f : Entry → Entry) : (modFresh f s).fresh = s.fresh.map f := rfl
@[simp] theorem modFresh_setFresh (f : Entry → Entry) (e : Entry) :
    modFresh f (setFresh e s) = setFresh (f e) s := rfl
@[simp] theorem countDevice_setFresh (d : Device) :
    countDevice (setFresh (.device d) s) = { s with dev := addEntry Config.devCap s.dev d, fresh := none } := rfl
@[simp] theorem countLd_setFresh (i : Nat) (l : LogicalDevice) :
    countLd i (setFresh (.ld l) s) =
      { modCrd i (fun c => { c with lds := addEntry Config.ldCap c.lds l }) s with fresh := none } := rfl
theorem countIn_setFresh {e : Entry} {f : LogicalDevice → LogicalDevice} (h : e.added = some f) (i j : Nat) :
    countIn i j (setFresh e s) = { modLd i j f s with fresh := none } := countIn_of (s := setFresh e s) rfl h i j
@[simp] theorem fillDevice_fresh : (fillDevice s).fresh = some (.device (newDevice s)) := rfl
@[simp] theorem modCrd_modCrd (i : Nat) (f g : Crd → Crd) :
    modCrd i f (modCrd i g s) = modCrd i (fun c => f (g c)) s := by
  simp [modCrd, List.modify_modify_eq, Function.comp_def]
@[simp] theorem modLd_modLd (i j : Nat) (f g : LogicalDevice → LogicalDevice) :
    modLd i j f (modLd i j g s) = modLd i j (fun l => f (g l)) s := by
  simp [modLd, List.modify_modify_eq, Function.comp_def]
@[simp] theorem takeInterrupt_fl :
    (takeInterrupt s).fl = { s.fl with lineMasked := true, halted := false } := rfl
@[simp] theorem takeInterrupt_ctl :
    (takeInterrupt s).ctl = { s.ctl with inIrq := true, irq := ⟨[.op .rxIrq], .unit⟩ } := rfl
@[simp] theorem takeInterrupt_rx : (takeInterrupt s).rx = { s.rx with fr := none } := rfl
@[simp] theorem returnFromInterrupt_fl :
    (returnFromInterrupt s).fl = { s.fl with lineMasked := false } := rfl
@[simp] theorem returnFromInterrupt_ctl :
    (returnFromInterrupt s).ctl = { s.ctl with inIrq := false } := rfl

@[simp] theorem setActive_inIrq (c : Ctx) : (State.setActive c s).ctl.inIrq = s.ctl.inIrq := by
  unfold State.setActive; cases h : s.ctl.inIrq <;> simp [h]
@[simp] theorem setActive_active (c : Ctx) : (State.setActive c s).active = c := by
  unfold State.setActive State.active; cases h : s.ctl.inIrq <;> simp [h]
@[simp] theorem setResult_inIrq (r : Result) : (setResult r s).ctl.inIrq = s.ctl.inIrq := by simp [setResult]
@[simp] theorem push_inIrq (ts : List Task) : (push ts s).ctl.inIrq = s.ctl.inIrq := by simp [push]
@[simp] theorem setTodo_inIrq (ts : List Task) : (setTodo ts s).ctl.inIrq = s.ctl.inIrq := by simp [setTodo]
@[simp] theorem raise_inIrq (f : Failure) : (raise f s).ctl.inIrq = s.ctl.inIrq := by
  unfold raise; split <;> simp
@[simp] theorem setResult_result (r : Result) : (setResult r s).result = r := by simp [setResult, State.result]
@[simp] theorem push_result (ts : List Task) : (push ts s).result = s.result := by simp [push, State.result]
@[simp] theorem setResult_todo (r : Result) : (setResult r s).active.todo = s.active.todo := by simp [setResult]
@[simp] theorem push_todo (ts : List Task) : (push ts s).active.todo = ts ++ s.active.todo := by simp [push]
theorem active_of_ctl {s t : State} (h : t.ctl = s.ctl) : t.active = s.active := by simp [State.active, h]

end Sys2Proof.Machine
end

