-- ==== Sys2Proof/Laws/Prog.lean ====
section
/-! SUPPORT. How a program runs: its parts one after another where no handler run can start, or a split. -/

namespace Sys2Proof.Machine

/-! ## A boundary -/

@[simp] theorem deliver_of_quiet {s : State} (h : Quiet s) : deliver s = s := by
  unfold Quiet at h
  simp [deliver, h]

/-- A boundary's delivery starts a handler run, or changes the environment only (60 R301). -/
theorem deliver_cases (s : State) :
    (s.deliverable = true ∧
      ∃ b, deliver s = takeInterrupt { s with bus := b } ∧ b.agents = s.bus.agents ∧ b.trace = s.bus.trace) ∨
      (∃ b, deliver s = { s with bus := b } ∧ b.agents = s.bus.agents ∧ b.trace = s.bus.trace) := by
  have hl : (s.bus.line s.cfg.num).2.agents = s.bus.agents ∧ (s.bus.line s.cfg.num).2.trace = s.bus.trace := by
    unfold Bus.line; split
    · exact ⟨rfl, rfl⟩
    · split <;> exact ⟨rfl, rfl⟩
  have hw : (s.bus.line s.cfg.num).2.wait.2.agents = s.bus.agents ∧
      (s.bus.line s.cfg.num).2.wait.2.trace = s.bus.trace := by
    rw [← hl.1, ← hl.2]; unfold Bus.wait; split
    · exact ⟨rfl, rfl⟩
    · split
      · exact ⟨rfl, rfl⟩
      · split <;> exact ⟨rfl, rfl⟩
  unfold deliver
  dsimp only
  split
  · rename_i hd
    split
    · split
      · exact .inl ⟨hd, _, rfl, hw⟩
      · exact .inr ⟨_, rfl, hw⟩
    · exact .inr ⟨_, rfl, hl⟩
  · exact .inr ⟨s.bus, rfl, rfl, rfl⟩

/-- A handler run starts only when 60 R301's conditions on the engine hold. -/
theorem deliverable_iff (s : State) :
    s.deliverable = true ↔
      s.fl.handlerSet = true ∧ s.fl.lineMasked = false ∧ s.fl.ifl = true ∧ s.ctl.inIrq = false := by
  simp [State.deliverable, and_assoc]

/-- Nothing starts while a handler runs (60 R304). -/
theorem quiet_of_inIrq {s : State} (h : s.ctl.inIrq = true) : Quiet s := by simp [Quiet, State.deliverable, h]

/-- Nothing starts under a guard (45 R280). -/
theorem quiet_of_if {s : State} (h : s.fl.ifl = false) : Quiet s := by simp [Quiet, State.deliverable, h]

/-- Between two steps the handler may return and a run may start. -/
theorem boundary_cases (s : State) :
    (s.ctl.inIrq = true ∧ s.ctl.irq.todo = [] ∧ boundary s = deliver (returnFromInterrupt s)) ∨
      (¬(s.ctl.inIrq = true ∧ s.ctl.irq.todo = []) ∧ boundary s = deliver s) := by
  unfold boundary
  by_cases h : s.ctl.inIrq = true ∧ s.ctl.irq.todo = []
  · left; simp [h.1, h.2]
  · right
    refine ⟨h, ?_⟩
    have : (s.ctl.inIrq && s.ctl.irq.todo.isEmpty) = false := by
      cases hi : s.ctl.inIrq <;> simp_all
    simp [this]

/-! ## Running a program -/

@[simp] theorem run_done (t : Task) (got : List Val) (s : State) : Prog.done.run t got s = s := rfl

/-- One part, and what its boundary does. -/
theorem run_act (t : Task) (got : List Val) (f : State → Val × State) (k : Val → Prog) (s : State) :
    (Prog.act f k).run t got s =
      if (k (f s).1).isDone then (f s).2
      else if (deliver (f s).2).ctl.inIrq && !(f s).2.ctl.inIrq then
        suspendAs (.resume t ((f s).1 :: got)) (deliver (f s).2)
      else (k (f s).1).run t ((f s).1 :: got) (deliver (f s).2) := rfl

theorem isDone_eq {p : Prog} (h : p.isDone = true) : p = .done := by
  cases p with
  | done => rfl
  | act f k => exact nomatch h

/-- After every part but the last, no handler run can start. -/
def QuietRun : Prog → State → Prop
  | .done, _ => True
  | .act f k, s => ((k (f s).1).isDone = true ∨ Quiet (f s).2) ∧ QuietRun (k (f s).1) (f s).2

/-- Where no handler run can start in between, a program is its parts one after another. -/
theorem run_eq_exec {p : Prog} {s : State} (h : QuietRun p s) (t : Task) (got : List Val) :
    p.run t got s = p.exec s := by
  induction p generalizing got s with
  | done => rfl
  | act f k ih =>
    rw [run_act]
    rcases h with ⟨h, h'⟩
    by_cases hd : (k (f s).1).isDone = true
    · rw [if_pos hd]
      simp only [Prog.exec, isDone_eq hd]
    · rcases h with h | h
      · exact absurd h hd
      · rw [if_neg hd, deliver_of_quiet h, if_neg (by cases (f s).2.ctl.inIrq <;> simp)]
        exact ih _ h' _

/-- No part touches what 60 R301 asks of the engine, nor the parameters. -/
def Steady : Prog → Prop
  | .done => True
  | .act f k => (∀ s, (f s).2.fl = s.fl ∧ (f s).2.ctl.inIrq = s.ctl.inIrq ∧ (f s).2.cfg = s.cfg) ∧ ∀ v, Steady (k v)

theorem quietRun_of_steady {p : Prog} (h : Steady p) {s : State} (q : Quiet s) : QuietRun p s := by
  induction p generalizing s with
  | done => trivial
  | act f k ih =>
    have hf := h.1 s
    have q' : Quiet (f s).2 := by simpa [Quiet, State.deliverable, hf.1, hf.2.1] using q
    exact ⟨.inr q', ih _ (h.2 _) q'⟩

/-- An operation whose preconditions hold, where no handler run can start. -/
theorem operate_steady {t : Task} {rs : List Req} {p : Params → Prog} {s : State} (h : ∀ r ∈ rs, r.holds s = true)
    (hp : Steady (p s.cfg)) (q : Quiet s) : operate t rs p s = .next ((p s.cfg).exec s) := by
  unfold operate
  induction rs with
  | nil => simp only [guarded]; rw [run_eq_exec (quietRun_of_steady hp q)]
  | cons r rs ih => simp only [guarded, h r (by simp), if_true]; exact ih fun x hx => h x (by simp [hx])

/-- Every part keeps `P`. -/
def Keeps (P : State → Prop) : Prog → Prop
  | .done => True
  | .act f k => (∀ s, P s → P (f s).2) ∧ ∀ v, Keeps P (k v)

theorem keeps_exec {P : State → Prop} {p : Prog} (h : Keeps P p) {s : State} (hs : P s) : P (p.exec s) := by
  induction p generalizing s with
  | done => exact hs
  | act f k ih => exact ih _ (h.2 _) (h.1 s hs)

/-- What every part keeps, and a delivery and a suspension in a handler run just begun with them, a run keeps. -/
theorem keeps_run {P : State → Prop} {p : Prog} {t : Task} (hd : ∀ s, P s → P (deliver s))
    (hs : ∀ s got, s.ctl.inIrq = true → P s → P (suspendAs (.resume t got) s)) (h : Keeps P p) (got : List Val)
    {s : State} (k : P s) : P (p.run t got s) := by
  induction p generalizing s got with
  | done => exact k
  | act f c ih =>
    rw [run_act]
    have h' := h.1 s k
    split
    · exact h'
    · split
      · rename_i hi
        exact hs _ _ (by simpa using (Bool.and_eq_true_iff.1 hi).1) (hd _ h')
      · exact ih _ (h.2 _) _ (hd _ h')

/-- Every part but the last keeps `P`. -/
def KeepsBetween (P : State → Prop) : Prog → Prop
  | .done => True
  | .act f k => (∀ s, P s → (k (f s).1).isDone = true ∨ P (f s).2) ∧ ∀ v, KeepsBetween P (k v)

/-- A run that starts in the main context ends there, or as a split of its step (60 R302, R303). -/
theorem run_split {p : Prog} {t : Task} {s : State} (hi : Keeps (fun u => u.ctl.inIrq = false) p)
    (ht : KeepsBetween (fun u => u.ctl.main.todo = s.ctl.main.todo) p) (hs : s.ctl.inIrq = false) (got : List Val) :
    (p.run t got s).ctl.inIrq = false ∨ ∃ got', SplitAt t got' s (p.run t got s) := by
  have aux : ∀ (p : Prog) (got : List Val) (u : State), Keeps (fun u => u.ctl.inIrq = false) p →
      KeepsBetween (fun u => u.ctl.main.todo = s.ctl.main.todo) p → u.ctl.inIrq = false →
      u.ctl.main.todo = s.ctl.main.todo →
      (p.run t got u).ctl.inIrq = false ∨ ∃ got', SplitAt t got' s (p.run t got u) := by
    intro p
    induction p with
    | done => intro got u _ _ hu _; exact .inl hu
    | act f k ih =>
      intro got u hk hb hu htodo
      rw [run_act]
      have h' : (f u).2.ctl.inIrq = false := hk.1 u hu
      split
      · exact .inl h'
      · rename_i hd
        have h'' : (f u).2.ctl.main.todo = s.ctl.main.todo := (hb.1 u htodo).resolve_left hd
        rcases deliver_cases (f u).2 with ⟨_, b, e, _⟩ | ⟨b, e, _⟩
        · refine .inr ⟨(f u).1 :: got, ?_⟩
          rw [e]
          simp [takeInterrupt, h', SplitAt, suspendAs, h'']
        · rw [e]
          simp only [h', Bool.not_false, Bool.and_true, Bool.false_eq_true, if_false]
          exact ih _ _ _ (hk.2 _) (hb.2 _) h' h''
  exact aux p got s hi ht hs rfl

end Sys2Proof.Machine
end

