-- ==== Sys2Proof/Laws/Ops.lean ====
section
/-! SUPPORT. One lemma per shared operation, saying once what it can do. -/

namespace Sys2Proof.Machine

/-! ## Preconditions -/

/-- A guarded operation answers a next state exactly when every precondition holds, and then it is the body's. -/
theorem guarded_next {rs : List Req} {f : State → State} {s t : State} :
    guarded rs f s = .next t ↔ (∀ r ∈ rs, r.holds s = true) ∧ t = f s := by
  induction rs with
  | nil =>
    constructor
    · intro k; injection k with k; exact And.intro (fun r hr => absurd hr (by simp)) k.symm
    · rintro ⟨-, rfl⟩; rfl
  | cons r rs ih =>
    unfold guarded
    by_cases h : r.holds s = true
    · simp [h, ih]
    · rw [if_neg h]
      constructor
      · intro k; split at k <;> exact nomatch k
      · intro k; exact absurd (k.1 r (by simp)) h

/-- A guarded operation whose preconditions hold runs its body. -/
theorem guarded_run {rs : List Req} {f : State → State} {s : State} (h : ∀ r ∈ rs, r.holds s = true) :
    guarded rs f s = .next (f s) := guarded_next.2 ⟨h, rfl⟩

/-! ## Port accesses -/

theorem portsOnly_refl (s : State) : PortsOnly [] s s := by simp [PortsOnly]

theorem portsOnly_trans {es fs : List Event} {s t u : State} (h : PortsOnly es s t) (k : PortsOnly fs t u) :
    PortsOnly (es ++ fs) s u := by
  unfold PortsOnly at *
  rw [k, h]
  simp

/-- A run of port accesses leaves every other part of the state as it was. -/
theorem portsOnly_frame {es : List Event} {s t : State} (h : PortsOnly es s t) :
    t.cfg = s.cfg ∧ t.iso = s.iso ∧ t.dec = s.dec ∧ t.dev = s.dev ∧ t.fresh = s.fresh ∧ t.nic = s.nic ∧
      t.phase = s.phase ∧ t.rx = s.rx ∧ t.fl = s.fl ∧ t.q = s.q ∧ t.taken = s.taken ∧ t.log = s.log ∧ t.wr = s.wr ∧ t.ctl = s.ctl ∧
      t.heap = s.heap ∧ t.bus.trace = s.bus.trace ++ es := by
  unfold PortsOnly at h
  rw [h]
  simp

/-- An answer changes the answers left, the counter and the agents, and nothing else of the bus. -/
theorem answer_frame (m : Numbers) (f : Half → Agents → Half × Agents) (b : Bus) :
    (b.answer m f).2 = { b with
      answers := (b.answer m f).2.answers
      draws := (b.answer m f).2.draws
      agents := (b.answer m f).2.agents } := by
  unfold Bus.answer
  dsimp only
  split
  · rfl
  · split <;> rfl

/-- A dictated answer is given, and the rest wait. -/
theorem answer_dictated (m : Numbers) (f : Half → Agents → Half × Agents) (b : Bus) {a : Half} {rest : List Half}
    (h : b.answers = a :: rest) : (b.answer m f).1 = a ∧ (b.answer m f).2.answers = rest := by
  unfold Bus.answer
  simp [h]

theorem ioRead8_ports (p : Half) (s : State) : PortsOnly [.rd8 p (ioRead8 p s).1] s (ioRead8 p s).2 := by
  unfold PortsOnly ioRead8 Bus.read8 Bus.emit
  dsimp only
  generalize hr : s.bus.answer _ _ = r
  have := answer_frame s.cfg.num (fun free g => let r := g.read8 s.cfg.num free p; (r.1.setWidth 16, r.2)) s.bus
  rw [hr] at this
  rw [this]

theorem ioRead8_dictated (p : Half) (s : State) {a : Half} {rest : List Half} (h : s.bus.answers = a :: rest) :
    (ioRead8 p s).1 = lo a ∧ (ioRead8 p s).2.bus.answers = rest := by
  have := answer_dictated s.cfg.num (fun free g => let r := g.read8 s.cfg.num free p; (r.1.setWidth 16, r.2)) s.bus h
  exact ⟨congrArg lo this.1, this.2⟩

theorem ioRead16_ports (p : Half) (s : State) : PortsOnly [.rd16 p (ioRead16 p s).1] s (ioRead16 p s).2 := by
  unfold PortsOnly ioRead16 Bus.read16 Bus.emit
  dsimp only
  generalize hr : s.bus.answer _ _ = r
  have := answer_frame s.cfg.num (fun free g => g.read16 s.cfg.num free p) s.bus
  rw [hr] at this
  rw [this]

theorem ioRead16_dictated (p : Half) (s : State) {a : Half} {rest : List Half} (h : s.bus.answers = a :: rest) :
    (ioRead16 p s).1 = a ∧ (ioRead16 p s).2.bus.answers = rest :=
  answer_dictated s.cfg.num (fun free g => g.read16 s.cfg.num free p) s.bus h

theorem ioWrite8_ports (p : Half) (v : Byte) (s : State) : PortsOnly [.wr8 p v] s (ioWrite8 p v s) := rfl

@[simp] theorem ioWrite8_answers (p : Half) (v : Byte) (s : State) :
    (ioWrite8 p v s).bus.answers = s.bus.answers := rfl

/-! ## Parts of a program, run one after another -/

@[simp] theorem exec_done (s : State) : Prog.done.exec s = s := rfl
@[simp] theorem exec_upd (f : State → State) (k : Prog) (s : State) : (Prog.upd f k).exec s = k.exec (f s) := rfl
@[simp] theorem exec_last (f : State → State) (s : State) : (Prog.last f).exec s = f s := rfl
@[simp] theorem exec_byte (f : State → Byte × State) (k : Byte → Prog) (s : State) :
    (Prog.byte f k).exec s = (k (f s).1).exec (f s).2 := rfl
@[simp] theorem exec_half (f : State → Half × State) (k : Half → Prog) (s : State) :
    (Prog.half f k).exec s = (k (f s).1).exec (f s).2 := rfl
@[simp] theorem exec_handle (f : State → Option Nat × State) (k : Option Nat → Prog) (s : State) :
    (Prog.handle f k).exec s = (k (f s).1).exec (f s).2 := rfl
@[simp] theorem exec_base (f : State → Option Half × State) (k : Option Half → Prog) (s : State) :
    (Prog.base f k).exec s = (k (f s).1).exec (f s).2 := rfl
@[simp] theorem exec_test (f : State → Bool) (yes no : Prog) (s : State) :
    (Prog.test f yes no).exec s = if f s then yes.exec s else no.exec s := by
  cases h : f s <;> simp [Prog.test, Prog.exec, Val.toBool, h]
@[simp] theorem exec_nat (f : State → Nat) (k : Nat → Prog) (s : State) :
    (Prog.nat f k).exec s = (k (f s)).exec s := rfl
@[simp] theorem exec_reg8 (f : State → Byte) (k : Byte → Prog) (s : State) :
    (Prog.reg8 f k).exec s = (k (f s)).exec s := rfl
@[simp] theorem exec_reg16 (f : State → Half) (k : Half → Prog) (s : State) :
    (Prog.reg16 f k).exec s = (k (f s)).exec s := rfl
@[simp] theorem exec_page (k : Option RegPage → Prog) (s : State) : (Prog.page k).exec s = (k s.nic.page).exec s := rfl
@[simp] theorem exec_curld (k : CurLd → Prog) (s : State) : (Prog.curld k).exec s = (k s.dec.curld).exec s := rfl
@[simp] theorem exec_ld (i j : State → Nat) (k : LogicalDevice → Prog) (s : State) :
    (Prog.ld i j k).exec s = (k (readLd (i s) (j s) s).1).exec (readLd (i s) (j s) s).2 := rfl
@[simp] theorem exec_io (i j k : Nat) (c : IoRange → Prog) (s : State) :
    (Prog.io i j k c).exec s = (c (readIo i j k s).1).exec (readIo i j k s).2 := rfl
@[simp] theorem exec_frameRec (f : State → FrameRec × State) (k : FrameRec → Prog) (s : State) :
    (Prog.frameRec f k).exec s = (k (f s).1).exec (f s).2 := rfl
@[simp] theorem exec_rd8 (p : Half) (k : Byte → Prog) (s : State) :
    (Prog.rd8 p k).exec s = (k (ioRead8 p s).1).exec (ioRead8 p s).2 := rfl
@[simp] theorem exec_wr8 (p : Half) (v : Byte) (k : Prog) (s : State) :
    (Prog.wr8 p v k).exec s = k.exec (ioWrite8 p v s) := rfl
@[simp] theorem exec_neRd (off : Half) (k : Byte → Prog) (s : State) :
    (Prog.neRd off k).exec s = (k (ioRead8 (s.nic.iobase + off) s).1).exec (ioRead8 (s.nic.iobase + off) s).2 := rfl
@[simp] theorem exec_neWr (off : Half) (v : Byte) (k : Prog) (s : State) :
    (Prog.neWr off v k).exec s = k.exec (ioWrite8 (s.nic.iobase + off) v s) := rfl
@[simp] theorem exec_neRd16 (off : Half) (k : Half → Prog) (s : State) :
    (Prog.neRd16 off k).exec s = (k (ioRead16 (s.nic.iobase + off) s).1).exec (ioRead16 (s.nic.iobase + off) s).2 := rfl
@[simp] theorem exec_log (f : Failure) (k : Prog) (s : State) : (Prog.log f k).exec s = k.exec (logFailure f s) := rfl
@[simp] theorem exec_answer (r : Result) (s : State) : (Prog.answer r).exec s = setResult r s := rfl
@[simp] theorem exec_fail (f : Failure) (s : State) : (Prog.fail f).exec s = raise f s := rfl

/-- A card-register write is its pair of accesses (40 R143). -/
theorem exec_cfgWr (reg v : Byte) (k : Prog) (s : State) :
    ∃ t, PortsOnly (cfgPair reg v) s t ∧ t.bus.answers = s.bus.answers ∧ (Prog.cfgWr reg v k).exec s = k.exec t :=
  ⟨_, portsOnly_trans (ioWrite8_ports _ _ s) (ioWrite8_ports _ _ _), rfl, rfl⟩

/-- A card-register read is its pair of accesses (40 R144). -/
theorem exec_cfgRd (reg : Byte) (k : Byte → Prog) (s : State) :
    ∃ v t, PortsOnly (cfgGet s.rdPort reg v) s t ∧ (Prog.cfgRd reg k).exec s = (k v).exec t ∧
      ∀ a rest, s.bus.answers = a :: rest → v = lo a ∧ t.bus.answers = rest :=
  ⟨_, _, portsOnly_trans (ioWrite8_ports _ _ s) (ioRead8_ports _ _), rfl, fun _ _ h => ioRead8_dictated _ _ h⟩

/-- A guard gives `IF` back whatever its body does (45 R280). -/
theorem exec_guardIf (f : State → State) (k : Prog) (s : State) :
    (Prog.guardIf (.upd f) k).exec s = k.exec (setIf s.fl.ifl (f (setIf false s))) := rfl

/-! ## The device table -/

/-- A logical device that was filled and counted is in the card's data (41 R174). -/
theorem exec_newLd (body : List Byte) (k : Prog) (s : State) :
    (newLd body k).exec s = k.exec { modCrd s.card (fun c =>
      { c with lds := addEntry Config.ldCap c.lds { LogicalDevice.empty with
        id := fieldId body
        flags := field body 4 } }) s with fresh := none } := rfl

/-- An entry written in one line and counted (41 R175, R181). -/
theorem exec_fill_countNew {e : Entry} {f : LogicalDevice → LogicalDevice} (h : e.added = some f) (j : Nat) (k : Prog)
    (s : State) : (fill e (countNew j k)).exec s = k.exec { modLd s.card j f s with fresh := none } :=
  congrArg k.exec (countIn_setFresh s h s.card j)

/-- An I/O range that was filled and counted is in its logical device (41 R178). -/
theorem exec_newIo (body : List Byte) (j : Nat) (k : Prog) (s : State) :
    (newIo body j k).exec s = k.exec { modLd s.card j (fun l =>
      { l with
        io := addEntry Config.ioCap l.io ⟨field body 0, field16 body 1, field16 body 3, field body 5,
          field body 6, s.dec.iocfg, none⟩ }) s with
      fresh := none } := by
  simp only [newIo, fill, fillIo, countNew, exec_upd, modFresh_setFresh, Entry.onIo, setFresh_dec]
  exact congrArg k.exec (countIn_setFresh s rfl s.card j)

/-- The interrupt resource of a record, field by field (41 R176). -/
theorem exec_irqFields (body : List Byte) (j : Nat) (k : Prog) (s : State) :
    (updLd j (fun l => { l with irq := some ⟨field16 body 0, 0, 0, none⟩ }) <|
      updIrq j (fun _ r => { r with info := irqInfo body }) <|
      updIrq j (fun s r => { r with cfgreg := s.dec.irqcfg }) <|
      updIrq j (fun _ r => { r with assigned := none }) k).exec s =
      k.exec (modLd s.card j (fun l =>
        { l with irq := some ⟨field16 body 0, irqInfo body, s.dec.irqcfg, none⟩ }) s) := by
  simp [updLd, updIrq, State.card]

/-- The DMA resource of a record, field by field (41 R177). -/
theorem exec_dmaFields (body : List Byte) (j : Nat) (k : Prog) (s : State) :
    (updLd j (fun l => { l with dma := some ⟨field body 0, 0⟩ }) <|
      updLd j (fun l => { l with dma := l.dma.map fun r => { r with info := field body 1 } }) k).exec s =
      k.exec (modLd s.card j (fun l => { l with dma := some ⟨field body 0, field body 1⟩ }) s) := by
  simp [updLd, State.card]

/-! ## The heap -/

/-- An allocation hands out the next fresh handle and records it live, or changes nothing of the heap. -/
theorem allocate_cases (n : Nat) (s : State) :
    ((allocate n s).1 = some s.heap.next ∧
        (allocate n s).2.heap = ⟨(s.heap.next, n) :: s.heap.live, s.heap.next + 1⟩) ∨
      ((allocate n s).1 = none ∧ (allocate n s).2.heap = s.heap) := by
  unfold allocate
  dsimp only
  split
  · left; exact ⟨rfl, rfl⟩
  · right; exact ⟨rfl, rfl⟩

@[simp] theorem release_heap (h : Nat) (s : State) :
    (release h s).heap = { s.heap with live := s.heap.live.filter fun p => decide (p.1 ≠ h) } := rfl

/-! ## The frame record -/

theorem readFr_some {s : State} {r : FrameRec} (h : s.rx.fr = some r) : readFr s = (r, s) := by simp [readFr, h]

theorem readFilledFr_some {s : State} {r : FrameRec} {e : EthHeader} (h : s.rx.fr = some r) (he : r.eth = some e) :
    readFilledFr s = (r, s) := by simp [readFilledFr, readFr_some h, he]

/-- Reading `FR` with its addresses gives the record, filled up where it has none; of the state it draws free values
at most. -/
theorem readFilledFr_cases (s : State) :
    ∃ e b, (readFilledFr s).1.eth = some e ∧ (readFilledFr s).2 = { s with bus := b } ∧ b.trace = s.bus.trace ∧
      ∀ r, s.rx.fr = some r → (readFilledFr s).1 = { r with eth := some (r.eth.getD e) } := by
  cases h : s.rx.fr with
  | none =>
    exact ⟨_, (drawn s).bus, by simp only [readFilledFr, readFr, h]; rfl, by simp [readFilledFr, readFr, h, drawn],
      rfl, by simp⟩
  | some r =>
    obtain ⟨rc, bf, len, eth⟩ := r
    cases eth with
    | none =>
      exact ⟨_, (drawn s).bus, by simp only [readFilledFr, readFr, h]; rfl, by simp [readFilledFr, readFr, h, drawn],
        rfl, by simp [readFilledFr, readFr, h]⟩
    | some e =>
      exact ⟨e, s.bus, by simp [readFilledFr, readFr, h], by simp [readFilledFr, readFr, h], rfl,
        by simp [readFilledFr, readFr, h]⟩

/-! ## Failures -/

theorem raise_logged {f : Failure} (h : f.logged = true) (s : State) :
    raise f s = setResult (.failed f) (logFailure f s) := by simp [raise, h]

theorem raise_unlogged {f : Failure} (h : f.logged = false) (s : State) :
    raise f s = setResult (.failed f) s := by simp [raise, h]

@[simp] theorem raise_result (f : Failure) (s : State) : (raise f s).result = .failed f := by simp [raise]

end Sys2Proof.Machine
end

