-- ==== Sys2Proof/Laws/Nic.lean ====
section
/-! SUPPORT. What the NIC accessors do, as port accesses followed by the selected page. -/

namespace Sys2Proof.Machine

/-! ## Parts that port accesses leave alone -/

theorem portsOnly_nic {es : List Event} {s t : State} (h : PortsOnly es s t) : t.nic = s.nic := by rw [h]
theorem portsOnly_cfg {es : List Event} {s t : State} (h : PortsOnly es s t) : t.cfg = s.cfg := by rw [h]
theorem portsOnly_rx {es : List Event} {s t : State} (h : PortsOnly es s t) : t.rx = s.rx := by rw [h]
theorem portsOnly_wr {es : List Event} {s t : State} (h : PortsOnly es s t) : t.wr = s.wr := by rw [h]
theorem portsOnly_ctl {es : List Event} {s t : State} (h : PortsOnly es s t) : t.ctl = s.ctl := by rw [h]

/-! ## One more access -/

theorem portsOnly_neWr {es : List Event} {s t : State} (h : PortsOnly es s t) (off : Half) (v : Byte) :
    PortsOnly (es ++ [neWr s off v]) s (ioWrite8 (t.nic.iobase + off) v t) := by
  have := portsOnly_trans h (ioWrite8_ports (t.nic.iobase + off) v t)
  rw [portsOnly_nic h] at this ⊢
  exact this

theorem portsOnly_neRd {es : List Event} {s t : State} (h : PortsOnly es s t) (off : Half) :
    PortsOnly (es ++ [.rd8 (s.nic.iobase + off) (ioRead8 (t.nic.iobase + off) t).1]) s
      (ioRead8 (t.nic.iobase + off) t).2 := by
  have := portsOnly_trans h (ioRead8_ports (t.nic.iobase + off) t)
  rw [portsOnly_nic h] at this ⊢
  exact this

/-- Reading words from the FIFO is that many word reads (43 R227). -/
theorem exec_fifoWords (c : Params) (k : List Half → Prog) (n : Nat) (got : List Half) (s : State) :
    ∃ ws t, ws.length = n ∧ PortsOnly (ws.map fun w => .rd16 (s.nic.iobase + c.num.neData) w) s t ∧
      (fifoWords c k n got).exec s = (k (got.reverse ++ ws)).exec t := by
  induction n generalizing got s with
  | zero => exact ⟨[], s, rfl, portsOnly_refl s, by simp [fifoWords]⟩
  | succ n ih =>
    have h := ioRead16_ports (s.nic.iobase + c.num.neData) s
    obtain ⟨ws, t, hl, hp, he⟩ := ih ((ioRead16 (s.nic.iobase + c.num.neData) s).1 :: got)
      (ioRead16 (s.nic.iobase + c.num.neData) s).2
    rw [portsOnly_nic h] at hp
    refine ⟨(ioRead16 (s.nic.iobase + c.num.neData) s).1 :: ws, t, by simp [hl], portsOnly_trans h hp, ?_⟩
    simpa [fifoWords, fifoRead16] using he

/-! ## The page -/

/-- A page selection is the accesses it needs, then the page (43 R220). -/
theorem exec_selectPage (p : RegPage) (k : Prog) (s : State) :
    ∃ v t, PortsOnly (pageTrace s p v) s t ∧ (selectPage s.cfg p k).exec s = k.exec (onPage p t) := by
  by_cases h : s.nic.page = some p
  · refine ⟨0, s, ?_, ?_⟩
    · simp only [pageTrace, h, if_true]; exact portsOnly_refl s
    · unfold selectPage onPage
      rw [exec_page, if_pos h, ← h]
  · have h1 := ioRead8_ports (s.nic.iobase + s.cfg.num.neCr) s
    have h2 := portsOnly_trans h1 (ioWrite8_ports (s.nic.iobase + s.cfg.num.neCr)
      (pageCommand s.cfg.num (ioRead8 (s.nic.iobase + s.cfg.num.neCr) s).1 p) _)
    refine ⟨(ioRead8 (s.nic.iobase + s.cfg.num.neCr) s).1, _,
      by simpa only [pageTrace, h, if_false, List.cons_append, List.nil_append] using h2, ?_⟩
    unfold selectPage
    rw [exec_page, if_neg h]
    rfl

/-- A register write beside the selected page. -/
theorem exec_neWr_onPage (p : RegPage) (off : Half) (v : Byte) (k : Prog) (s : State) :
    (Prog.neWr off v k).exec (onPage p s) = k.exec (onPage p (ioWrite8 (s.nic.iobase + off) v s)) := rfl

/-- A second selection of the page makes no access (43 R242). -/
@[simp] theorem exec_selectPage_onPage (c : Params) (p : RegPage) (k : Prog) (s : State) :
    (selectPage c p k).exec (onPage p s) = k.exec (onPage p s) := by simp [selectPage, onPage]

/-- The command accessor on a selected page 0 (43 R221). -/
theorem exec_neCommand_p0 (c : Params) (cmd : Byte) (k : Prog) (s : State) :
    (neCommand c cmd k).exec (onPage .p0 s) =
      k.exec (onPage .p0 (ioWrite8 (s.nic.iobase + c.num.neCr) (cmd &&& cmdMask c.num) s)) := by
  have : pageBits c.num .p0 = 0 := by simp [pageBits, pageNumber]
  simp only [neCommand, exec_page, exec_neWr, currentPageBits, onPage, this]
  rw [show (cmd &&& cmdMask c.num) ||| 0 = cmd &&& cmdMask c.num from BitVec.or_zero]
  rfl

/-- A remote read request is the page selection and its five writes (43 R226, 30 R125). -/
theorem exec_remoteRead (addr count : Half) (k : Prog) (s : State) :
    ∃ v t, PortsOnly (pageTrace s .p0 v ++ rdmaTrace s addr count) s t ∧
      (remoteRead s.cfg addr count k).exec s = k.exec (onPage .p0 t) := by
  obtain ⟨v, t, h, e⟩ := exec_selectPage .p0
    (.neWr s.cfg.num.neRsar0 (lo addr) <| .neWr s.cfg.num.neRsar1 (hi addr) <|
      rbcrWrite s.cfg count <| neCommand s.cfg s.cfg.num.cmdRread k) s
  have h5 := portsOnly_neWr (portsOnly_neWr (portsOnly_neWr (portsOnly_neWr (portsOnly_neWr h
    s.cfg.num.neRsar0 (lo addr)) s.cfg.num.neRsar1 (hi addr)) s.cfg.num.neRbcr0 (lo count)) s.cfg.num.neRbcr1
    (hi count)) s.cfg.num.neCr (s.cfg.num.cmdRread &&& cmdMask s.cfg.num)
  simp only [List.append_assoc, List.cons_append, List.nil_append] at h5
  refine ⟨v, _, h5, ?_⟩
  unfold remoteRead rsarWrite
  rw [e]
  simp only [exec_neWr_onPage, rbcrWrite, exec_selectPage_onPage]
  exact exec_neCommand_p0 _ _ _ _

end Sys2Proof.Machine
end

