-- ==== Sys2Proof/Laws/Steady.lean ====
section
/-! SUPPORT. Which operations leave alone what 60 R301 asks of the engine: all but the handler's registration, its
unmasking and the guards. Where no handler run can start when such an operation begins, none can start in it. -/

namespace Sys2Proof.Machine

/-- An update that changes neither the interrupt flags, nor the context that runs, nor the parameters. -/
def Calm (f : State → State) : Prop := ∀ s, (f s).fl = s.fl ∧ (f s).ctl.inIrq = s.ctl.inIrq ∧ (f s).cfg = s.cfg

/-! ## Parts -/

theorem steady_done : Steady .done := trivial

theorem steady_upd {f : State → State} {k : Prog} (hf : Calm f) (hk : Steady k) : Steady (.upd f k) :=
  ⟨hf, fun _ => hk⟩

theorem steady_last {f : State → State} (hf : Calm f) : Steady (.last f) := steady_upd hf steady_done

theorem steady_byte {f : State → Byte × State} {k : Byte → Prog} (hf : Calm fun s => (f s).2)
    (hk : ∀ v, Steady (k v)) : Steady (.byte f k) := ⟨hf, fun _ => hk _⟩

theorem steady_half {f : State → Half × State} {k : Half → Prog} (hf : Calm fun s => (f s).2)
    (hk : ∀ v, Steady (k v)) : Steady (.half f k) := ⟨hf, fun _ => hk _⟩

theorem steady_handle {f : State → Option Nat × State} {k : Option Nat → Prog} (hf : Calm fun s => (f s).2)
    (hk : ∀ v, Steady (k v)) : Steady (.handle f k) := ⟨hf, fun _ => hk _⟩

theorem steady_base {f : State → Option Half × State} {k : Option Half → Prog} (hf : Calm fun s => (f s).2)
    (hk : ∀ v, Steady (k v)) : Steady (.base f k) := ⟨hf, fun _ => hk _⟩

theorem steady_test {f : State → Bool} {yes no : Prog} (hy : Steady yes) (hn : Steady no) :
    Steady (.test f yes no) := ⟨fun _ => ⟨rfl, rfl, rfl⟩, fun v => by cases h : v.toBool <;> simp [h, hy, hn]⟩

theorem steady_nat {f : State → Nat} {k : Nat → Prog} (hk : ∀ n, Steady (k n)) : Steady (.nat f k) :=
  ⟨fun _ => ⟨rfl, rfl, rfl⟩, fun _ => hk _⟩

theorem steady_reg8 {f : State → Byte} {k : Byte → Prog} (hk : ∀ v, Steady (k v)) : Steady (.reg8 f k) :=
  ⟨fun _ => ⟨rfl, rfl, rfl⟩, fun _ => hk _⟩

theorem steady_reg16 {f : State → Half} {k : Half → Prog} (hk : ∀ v, Steady (k v)) : Steady (.reg16 f k) :=
  ⟨fun _ => ⟨rfl, rfl, rfl⟩, fun _ => hk _⟩

theorem steady_page {k : Option RegPage → Prog} (hk : ∀ q, Steady (k q)) : Steady (.page k) :=
  ⟨fun _ => ⟨rfl, rfl, rfl⟩, fun _ => hk _⟩

theorem steady_curld {k : CurLd → Prog} (hk : ∀ c, Steady (k c)) : Steady (.curld k) :=
  ⟨fun _ => ⟨rfl, rfl, rfl⟩, fun _ => hk _⟩

theorem steady_ld {i j : State → Nat} {k : LogicalDevice → Prog} (hk : ∀ l, Steady (k l)) : Steady (.ld i j k) :=
  ⟨fun s => ⟨by simp, by simp, by simp⟩, fun v => by cases v <;> first | exact hk _ | trivial⟩

theorem steady_io {i j n : Nat} {k : IoRange → Prog} (hk : ∀ l, Steady (k l)) : Steady (.io i j n k) :=
  ⟨fun s => ⟨by simp, by simp, by simp⟩, fun v => by cases v <;> first | exact hk _ | trivial⟩

theorem steady_frameRec {f : State → FrameRec × State} {k : FrameRec → Prog} (hf : Calm fun s => (f s).2)
    (hk : ∀ r, Steady (k r)) : Steady (.frameRec f k) :=
  ⟨hf, fun v => by cases v <;> first | exact hk _ | trivial⟩

theorem steady_wr8 {p : Half} {v : Byte} {k : Prog} (hk : Steady k) : Steady (.wr8 p v k) :=
  ⟨fun _ => ⟨rfl, rfl, rfl⟩, fun _ => hk⟩

theorem steady_rd8 {p : Half} {k : Byte → Prog} (hk : ∀ v, Steady (k v)) : Steady (.rd8 p k) :=
  ⟨fun _ => ⟨rfl, rfl, rfl⟩, fun _ => hk _⟩

theorem steady_rdPort {k : Byte → Prog} (hk : ∀ v, Steady (k v)) : Steady (.rdPort k) :=
  ⟨fun _ => ⟨rfl, rfl, rfl⟩, fun _ => hk _⟩

theorem steady_cfgWr {reg v : Byte} {k : Prog} (hk : Steady k) : Steady (.cfgWr reg v k) := steady_wr8 (steady_wr8 hk)

theorem steady_cfgRd {reg : Byte} {k : Byte → Prog} (hk : ∀ v, Steady (k v)) : Steady (.cfgRd reg k) :=
  steady_wr8 (steady_rdPort hk)

theorem steady_neRd {off : Half} {k : Byte → Prog} (hk : ∀ v, Steady (k v)) : Steady (.neRd off k) :=
  ⟨fun _ => ⟨rfl, rfl, rfl⟩, fun _ => hk _⟩

theorem steady_neWr {off : Half} {v : Byte} {k : Prog} (hk : Steady k) : Steady (.neWr off v k) :=
  ⟨fun _ => ⟨rfl, rfl, rfl⟩, fun _ => hk⟩

theorem steady_neRd16 {off : Half} {k : Half → Prog} (hk : ∀ v, Steady (k v)) : Steady (.neRd16 off k) :=
  ⟨fun _ => ⟨rfl, rfl, rfl⟩, fun _ => hk _⟩

theorem calm_setResult (r : Result) : Calm (setResult r) := fun s => ⟨rfl, by simp, rfl⟩
theorem calm_push (ts : List Task) : Calm (push ts) := fun s => ⟨rfl, by simp, rfl⟩
theorem calm_raise (f : Failure) : Calm (raise f) := fun s => ⟨by simp, by simp, by simp⟩

theorem steady_answer {r : Result} : Steady (.answer r) := steady_last (calm_setResult r)
theorem steady_fail {f : Failure} : Steady (.fail f) := steady_last (calm_raise f)
theorem steady_log {f : Failure} {k : Prog} (hk : Steady k) : Steady (.log f k) :=
  steady_upd (fun _ => ⟨rfl, rfl, rfl⟩) hk

/-! ## Isolation -/

theorem steady_keyPreamble (n : Nat) {k : Prog} (hk : Steady k) : Steady (keyPreamble n k) := by
  induction n with
  | zero => exact hk
  | succ n ih => exact steady_wr8 ih

theorem steady_keyBytes (n : Nat) {k : Prog} (hk : Steady k) : Steady (keyBytes n k) := by
  induction n with
  | zero => exact hk
  | succ n ih => exact steady_upd (fun _ => ⟨rfl, rfl, rfl⟩) (steady_upd (fun _ => ⟨rfl, rfl, rfl⟩) ih)

theorem steady_keySend (c : Params) : Steady (keySend c) :=
  steady_keyPreamble _ (steady_upd (fun _ => ⟨rfl, rfl, rfl⟩)
    (steady_keyBytes _ (steady_last fun _ => ⟨rfl, rfl, rfl⟩)))

theorem steady_idSample {k : Half → Prog} (hk : ∀ v, Steady (k v)) : Steady (idSample k) :=
  steady_rdPort fun _ => steady_rdPort fun _ => hk _

theorem steady_sampleResult (v : Half) : Steady (sampleResult v) := by
  unfold sampleResult; split
  · exact steady_answer
  · exact steady_fail

theorem steady_idBits (n : Nat) {k : Option Failure → Prog} (hk : ∀ r, Steady (k r)) : Steady (idBits n k) := by
  induction n with
  | zero => exact hk _
  | succ n ih =>
    refine steady_idSample fun v => ?_
    split
    · exact hk _
    · refine steady_upd (fun _ => ⟨rfl, rfl, rfl⟩) ?_
      split
      · exact steady_upd (fun _ => ⟨rfl, rfl, rfl⟩) (steady_upd (fun _ => ⟨rfl, rfl, rfl⟩) ih)
      · exact steady_upd (fun _ => ⟨rfl, rfl, rfl⟩) ih

theorem steady_idRead {k : Option Failure → Prog} (hk : ∀ r, Steady (k r)) : Steady (idRead k) :=
  steady_upd (fun _ => ⟨rfl, rfl, rfl⟩) <| steady_upd (fun _ => ⟨rfl, rfl, rfl⟩) <|
    steady_upd (fun _ => ⟨rfl, rfl, rfl⟩) <| steady_idBits _ fun r => by
      cases r with
      | none => exact steady_test (hk _) (hk _)
      | some f => exact hk _

theorem steady_idReadOp (c : Params) : Steady (idReadOp c) :=
  steady_idRead fun r => by cases r; exacts [steady_answer, steady_fail]

theorem steady_setRdp (c : Params) (p : Half) {k : Prog} (hk : Steady k) : Steady (setRdp c p k) :=
  steady_cfgWr (steady_upd (fun _ => ⟨rfl, rfl, rfl⟩) hk)

theorem steady_isoRound (first : Bool) (c : Params) : Steady (isoRound first c) := by
  have h : Steady (isoSelect c <| idRead fun r => match r with | some _ => .answer .noneFound | none => isoStore c) :=
    steady_wr8 <| steady_idRead fun r => by
      cases r with
      | some f => exact steady_answer
      | none =>
        exact steady_nat fun n => steady_cfgWr <| steady_upd (fun _ => ⟨rfl, rfl, rfl⟩) <|
          steady_upd (fun s => ⟨by simp, by simp, by simp⟩) <| steady_upd (fun _ => ⟨rfl, rfl, rfl⟩)
            (steady_last (calm_push _))
  unfold isoRound
  cases first
  · exact steady_cfgWr h
  · exact h

/-! ## The resource decoder -/

theorem steady_rdPoll (c : Params) {ready : Byte → Prog} {wait : Prog} (hr : ∀ b, Steady (ready b))
    (hw : Steady wait) : Steady (rdPoll c ready wait) := by
  refine steady_cfgRd fun st => ?_
  split
  · exact steady_cfgRd fun b => steady_upd (fun _ => ⟨rfl, rfl, rfl⟩) (hr b)
  · exact hw

theorem steady_rdByte (c : Params) : Steady (rdByte c) :=
  steady_rdPoll c (fun _ => steady_answer) (steady_last (calm_push _))

theorem steady_headerHigh (h l0 : Byte) (c : Params) : Steady (headerHigh h l0 c) :=
  steady_rdPoll c (fun _ => steady_answer) (steady_last (calm_push _))

theorem steady_headerLow (h : Byte) (c : Params) : Steady (headerLow h c) :=
  steady_rdPoll c (fun _ => steady_headerHigh _ _ _) (steady_last (calm_push _))

theorem steady_rdHeader (c : Params) : Steady (rdHeader c) := by
  refine steady_rdPoll c (fun h => ?_) (steady_last (calm_push _))
  unfold headerForm; split
  · exact steady_headerLow _ _
  · exact steady_answer

theorem steady_headerRest (got : List Byte) (c : Params) : Steady (headerRest got c) := by
  unfold headerRest; split
  · exact steady_rdHeader c
  · exact steady_headerLow _ _
  · exact steady_headerHigh _ _ _

theorem steady_attach {f : Fin 4 → Prog} (h : ∀ j, Steady (f j)) : Steady (attach f) := by
  refine steady_curld fun c => ?_
  cases c with
  | none => exact steady_log steady_done
  | overflow => exact steady_done
  | index j => exact h j

theorem steady_updCrd (f : Crd → Crd) {k : Prog} (hk : Steady k) : Steady (updCrd f k) :=
  steady_upd (fun _ => ⟨rfl, rfl, rfl⟩) hk

theorem steady_updLd (j : Nat) (f : LogicalDevice → LogicalDevice) {k : Prog} (hk : Steady k) :
    Steady (updLd j f k) := steady_upd (fun _ => ⟨rfl, rfl, rfl⟩) hk

theorem steady_fill (e : Entry) {k : Prog} (hk : Steady k) : Steady (fill e k) :=
  steady_upd (fun _ => ⟨rfl, rfl, rfl⟩) hk

theorem steady_modFresh (f : State → Entry → Entry) {k : Prog} (hk : Steady k) :
    Steady (.upd (fun s => modFresh (f s) s) k) := steady_upd (fun _ => ⟨rfl, rfl, rfl⟩) hk

theorem steady_countNew (j : Nat) {k : Prog} (hk : Steady k) : Steady (countNew j k) :=
  steady_upd (fun s => ⟨by simp, by simp, by simp⟩) hk

theorem steady_newLd (body : List Byte) {k : Prog} (hk : Steady k) : Steady (newLd body k) :=
  steady_fill _ <| steady_modFresh _ <| steady_modFresh _ <| steady_modFresh _ <|
    steady_upd (fun s => ⟨by simp, by simp, by simp⟩) hk

theorem steady_newIo (body : List Byte) (j : Nat) {k : Prog} (hk : Steady k) : Steady (newIo body j k) :=
  steady_fill _ <| steady_modFresh _ <| steady_modFresh _ <| steady_modFresh _ <| steady_modFresh _ <|
    steady_modFresh _ <| steady_modFresh _ <| steady_countNew j hk

theorem steady_updIrq (j : Nat) (f : State → IrqRes → IrqRes) {k : Prog} (hk : Steady k) : Steady (updIrq j f k) :=
  steady_upd (fun _ => ⟨rfl, rfl, rfl⟩) hk

theorem steady_cardLd (j : Nat) {k : LogicalDevice → Prog} (hk : ∀ l, Steady (k l)) : Steady (cardLd j k) :=
  steady_ld hk

theorem steady_recLogdev (body : List Byte) (c : Params) : Steady (recLogdev body c) := by
  refine ⟨fun s => ⟨by simp [cardLdcount], by simp [cardLdcount], by simp [cardLdcount]⟩, fun n => ?_⟩
  dsimp only
  split
  · exact steady_log (steady_last fun _ => ⟨rfl, rfl, rfl⟩)
  · exact steady_newLd _ <| steady_upd (fun _ => ⟨rfl, rfl, rfl⟩) <| steady_upd (fun _ => ⟨rfl, rfl, rfl⟩)
      (steady_last fun _ => ⟨rfl, rfl, rfl⟩)

theorem steady_recMemory (k : MemKind) (tag : Byte) (body : List Byte) (c : Params) :
    Steady (recMemory k tag body c) := by
  unfold recMemory; split
  · exact steady_fail
  · refine steady_attach fun j => steady_cardLd _ fun l => ?_
    split
    · exact steady_log steady_done
    · exact steady_fill _ (steady_countNew _ steady_done)

theorem steady_runRecord (k : RecKind) (body : List Byte) (c : Params) : Steady (runRecord k body c) := by
  cases k
  case version => exact steady_updCrd _ (steady_updCrd _ steady_done)
  case logdev => exact steady_recLogdev body c
  case compat =>
    refine steady_attach fun j => steady_cardLd _ fun l => ?_
    split
    · exact steady_log steady_done
    · exact steady_fill _ (steady_countNew _ steady_done)
  case irq =>
    refine steady_attach fun j => steady_cardLd _ fun l => ?_
    split
    · exact steady_log steady_done
    · exact steady_updLd _ _ <| steady_updIrq _ _ <| steady_updIrq _ _ <| steady_updIrq _ _ <|
        steady_last fun _ => ⟨rfl, rfl, rfl⟩
  case dma =>
    refine steady_attach fun j => steady_cardLd _ fun l => ?_
    split
    · exact steady_log steady_done
    · exact steady_updLd _ _ (steady_updLd _ _ steady_done)
  case ioport =>
    refine steady_attach fun j => steady_cardLd _ fun l => ?_
    split
    · exact steady_log steady_done
    · exact steady_newIo _ _ (steady_last fun _ => ⟨rfl, rfl, rfl⟩)
  case ansi =>
    refine ⟨fun _ => ⟨rfl, rfl, rfl⟩, fun v => ?_⟩
    dsimp only
    split
    · exact steady_updCrd _ steady_done
    · exact steady_done
    · exact steady_updLd _ _ steady_done
  case endTag => exact steady_last (fun s => calm_setResult _ s)
  case mem => exact steady_recMemory _ _ _ _
  case mem32 => exact steady_recMemory _ _ _ _

theorem steady_readBody (u : BodyUse) (c : Params) (n : Nat) (got : List Byte) : Steady (readBody u c n got) := by
  induction n generalizing got with
  | zero =>
    refine steady_upd (calm_setResult _) ?_
    split
    · exact steady_done
    · unfold recordDone; split
      · exact steady_runRecord _ _ _
      · refine steady_log ?_
        split
        · exact steady_fail
        · exact steady_runRecord _ _ _
  | succ n ih => exact steady_rdPoll c (fun _ => ih _) (steady_last (calm_push _))

/-! ## The allocator -/

theorem steady_cfgSelect (c : Params) (i j : Nat) {k : Prog} (hk : Steady k) : Steady (cfgSelect c i j k) :=
  steady_byte (fun s => ⟨by simp [readCsn], by simp [readCsn], by simp [readCsn]⟩)
    fun _ => steady_cfgWr (steady_cfgWr hk)

theorem steady_probeSweep {k : Bool → Prog} (hk : ∀ b, Steady (k b)) (ps : List Half) : Steady (probeSweep k ps) := by
  induction ps with
  | nil => exact hk _
  | cons p ps ih =>
    refine steady_rd8 fun v => ?_
    split
    · exact ih
    · exact hk _

theorem steady_cfgProbe (c : Params) (base : Half) (len : Nat) {k : Bool → Prog} (hk : ∀ b, Steady (k b)) :
    Steady (cfgProbe c base len k) := by
  unfold cfgProbe
  induction c.probePasses with
  | zero => exact hk _
  | succ n ih => exact steady_probeSweep (fun b => by cases b; exacts [hk _, ih]) _

theorem steady_ioSearch (c : Params) (d : IoRange) {k : Option Half → Prog} (hk : ∀ r, Steady (k r)) (n b : Nat) :
    Steady (ioSearch c d k n b) := by
  induction n generalizing b with
  | zero => exact hk _
  | succ n ih =>
    unfold ioSearch; split
    · refine steady_cfgProbe _ _ _ fun clean => ?_
      split
      · exact steady_cfgWr (steady_cfgWr (hk _))
      · exact ih _
    · exact hk _

theorem steady_cfgIo (c : Params) (i j k : Nat) {next : Bool → Prog} (hk : ∀ b, Steady (next b)) :
    Steady (cfgIo c i j k next) := by
  refine steady_io fun d => steady_ioSearch c d (fun r => ?_) _ _
  cases r
  · exact steady_upd (calm_raise _) (hk _)
  · exact steady_upd (fun s => ⟨rfl, by simp [assignIo, modIo, modLd, modCrd], rfl⟩) (hk _)

theorem steady_cfgIoOp (i j k : Byte) (c : Params) : Steady (cfgIoOp i j k c) := by
  unfold cfgIoOp
  exact steady_cfgIo _ _ _ _ fun _ => steady_done

theorem steady_cfgIrq (i j : Nat) {next : Bool → Prog} (hk : ∀ b, Steady (next b)) : Steady (cfgIrq i j next) := by
  refine steady_ld fun l => ?_
  split
  · exact steady_upd (calm_raise _) (hk _)
  · exact steady_cfgWr <| steady_cfgWr <|
      steady_upd (fun s => ⟨rfl, by simp [assignIrq, modLd, modCrd], rfl⟩) (hk _)

theorem steady_cfgActivate (c : Params) (i j : Nat) {k : Prog} (hk : Steady k) : Steady (cfgActivate c i j k) :=
  steady_cfgWr <| steady_cfgWr <| steady_cfgWr <| steady_upd (fun _ => ⟨rfl, rfl, rfl⟩) hk

theorem steady_cfgDevice (c : Params) (i j : Nat) {k : Prog} (hk : Steady k) : Steady (cfgDevice c i j k) := by
  have hr : ∀ b, Steady (deviceResult b k) := fun b => steady_upd (calm_setResult _) hk
  refine steady_ld fun l => steady_cfgSelect c i j ?_
  have : ∀ (next : Bool → Prog), (∀ b, Steady (next b)) → ∀ ks, Steady (cfgRanges c i j next ks) := by
    intro next hn ks
    induction ks with
    | nil => exact hn _
    | cons a ks ih => exact steady_cfgIo c i j a fun b => by cases b; exacts [hn _, ih]
  refine this _ (fun b => ?_) _
  cases b with
  | false => exact hr false
  | true =>
    rw [if_pos rfl]
    refine steady_cfgIrq i j fun b => ?_
    cases b with
    | false => exact hr false
    | true => exact steady_cfgActivate c i j (hr true)

theorem steady_cfgAll (c : Params) : Steady (cfgAll c) := by
  have hl : ∀ i (k : Prog), Steady k → ∀ js, Steady (cfgLds c i k js) := by
    intro i k hk js
    induction js with
    | nil => exact hk
    | cons j js ih =>
      refine steady_ld fun l => ?_
      split
      · exact steady_cfgDevice c i j ih
      · exact ih
  have hc : ∀ is, Steady (cfgCards c is) := by
    intro is
    induction is with
    | nil => exact steady_done
    | cons i is ih => exact steady_test (steady_nat fun n => hl _ _ ih _) ih
  exact steady_nat fun n => hc _

/-! ## The NIC -/

theorem steady_selectPage (c : Params) (p : RegPage) {k : Prog} (hk : Steady k) : Steady (selectPage c p k) := by
  refine steady_page fun q => ?_
  split
  · exact hk
  · exact steady_neRd fun v => steady_neWr <| steady_upd (fun _ => ⟨rfl, rfl, rfl⟩) hk

theorem steady_neCommand (c : Params) (cmd : Byte) {k : Prog} (hk : Steady k) : Steady (neCommand c cmd k) :=
  steady_page fun _ => steady_neWr hk

theorem steady_remoteRead (c : Params) (a n : Half) {k : Prog} (hk : Steady k) : Steady (remoteRead c a n k) :=
  steady_selectPage c _ <| steady_neWr <| steady_neWr <| steady_selectPage c _ <| steady_neWr <| steady_neWr <|
    steady_neCommand c _ hk

theorem steady_fifoWords (c : Params) {k : List Half → Prog} (hk : ∀ ws, Steady (k ws)) (n : Nat) (got : List Half) :
    Steady (fifoWords c k n got) := by
  induction n generalizing got with
  | zero => exact hk _
  | succ n ih => exact ⟨fun _ => ⟨rfl, rfl, rfl⟩, fun v => ih _⟩

theorem calm_bindBase : Calm fun s => (bindBase s).2 := by
  intro s
  unfold bindBase; dsimp only; split
  · exact ⟨rfl, rfl, rfl⟩
  · split <;> exact ⟨rfl, rfl, rfl⟩

theorem steady_bind {onBound onNone : Prog} (hb : Steady onBound) (hn : Steady onNone) :
    Steady (bind onBound onNone) := by
  refine steady_base calm_bindBase fun r => ?_
  cases r
  · exact steady_upd (calm_raise _) hn
  · exact steady_upd (fun _ => ⟨rfl, rfl, rfl⟩) <| steady_upd (fun _ => ⟨rfl, rfl, rfl⟩) <|
      steady_upd (fun _ => ⟨rfl, rfl, rfl⟩) <| steady_upd (fun _ => ⟨rfl, rfl, rfl⟩) hb

theorem calm_ite_push (b : Bool) (p : Phase) (ts : List Task) : Calm (if b then setPhase p else push ts) := by
  cases b
  · exact calm_push ts
  · exact fun _ => ⟨rfl, rfl, rfl⟩

theorem steady_resetPoll (c : Params) : Steady (resetPoll c) :=
  steady_neRd fun _ => steady_last (calm_ite_push _ _ _)

theorem steady_startPoll (c : Params) : Steady (startPoll c) :=
  steady_neRd fun _ => steady_last (by split; exacts [calm_push _, fun _ => ⟨rfl, rfl, rfl⟩])

theorem steady_neReset (c : Params) : Steady (neReset c) := by
  unfold neReset
  exact steady_neRd fun _ => steady_neWr (steady_resetPoll c)

theorem steady_promWords (c : Params) (n : Nat) : Steady (promWords c n) := by
  induction n with
  | zero => exact steady_done
  | succ n ih =>
    exact steady_neRd16 fun w => steady_upd (fun _ => ⟨rfl, rfl, rfl⟩) (steady_upd (fun _ => ⟨rfl, rfl, rfl⟩) ih)

theorem steady_neProm (c : Params) : Steady (neProm c) := by
  unfold neProm
  exact steady_remoteRead _ _ _ (steady_promWords _ _)

theorem steady_parWrites (c : Params) {k : Prog} (hk : Steady k) (n : Nat) : Steady (parWrites c k n) := by
  induction n with
  | zero => exact hk
  | succ n ih => exact steady_reg8 fun _ => steady_neWr ih

theorem steady_memoryRecord (k : RecKind) (len : Half) (c : Params) : Steady (memoryRecord k len c) := by
  unfold memoryRecord; split
  · exact steady_readBody _ _ _ _
  · exact steady_fail

theorem steady_currRead (c : Params) {k : Byte → Prog} (hk : ∀ v, Steady (k v)) : Steady (currRead c k) :=
  steady_selectPage _ _ (steady_neRd hk)

theorem steady_currWrite (c : Params) (v : Byte) {k : Prog} (hk : Steady k) : Steady (currWrite c v k) :=
  steady_selectPage _ _ (steady_neWr hk)

theorem steady_bnryWrite (c : Params) (v : Byte) {k : Prog} (hk : Steady k) : Steady (bnryWrite c v k) :=
  steady_selectPage _ _ (steady_neWr hk)

theorem steady_rbcrWrite (c : Params) (v : Half) {k : Prog} (hk : Steady k) : Steady (rbcrWrite c v k) :=
  steady_selectPage _ _ (steady_neWr (steady_neWr hk))

theorem steady_neBasicinit (c : Params) : Steady (neBasicinit c) := by
  unfold neBasicinit
  exact steady_selectPage _ _ <| steady_neCommand _ _ <| steady_neWr <| steady_rbcrWrite _ _ <| steady_neWr <|
      steady_neWr (steady_last fun _ => ⟨rfl, rfl, rfl⟩)

theorem steady_neMac (c : Params) : Steady (neMac c) := by
  unfold neMac
  exact steady_selectPage _ _ (steady_parWrites _ (steady_last (f := setPhase _) fun _ => ⟨rfl, rfl, rfl⟩) _)

theorem steady_neRing (c : Params) : Steady (neRing c) := by
  unfold neRing
  exact steady_selectPage _ _ <| steady_neWr <| steady_neWr <| steady_bnryWrite _ _ <| steady_currWrite _ _ <|
      steady_selectPage _ _ <| steady_upd (f := setNextPkt _) (fun _ => ⟨rfl, rfl, rfl⟩)
        (steady_last (f := setPhase _) fun _ => ⟨rfl, rfl, rfl⟩)

theorem steady_neStart (c : Params) : Steady (neStart c) := by
  unfold neStart
  exact steady_neCommand _ _ (steady_startPoll c)

theorem steady_rxIrq (c : Params) : Steady (rxIrq c) := by
  unfold rxIrq
  exact steady_selectPage _ _ <| steady_neRd fun v => steady_upd (f := setIsrseen v) (fun _ => ⟨rfl, rfl, rfl⟩)
      (steady_last (calm_push _))

theorem steady_rxPendingOp (c : Params) : Steady (rxPendingOp c) := by
  unfold rxPendingOp rxPending
  exact steady_currRead _ fun _ => steady_reg8 fun _ => steady_answer

theorem steady_rxHdrOp (c : Params) : Steady (rxHdrOp c) := by
  unfold rxHdrOp rxHdr fifoRead16
  exact steady_reg8 fun _ => steady_remoteRead _ _ _ <| steady_neRd16 fun w0 => steady_neRd16 fun w1 =>
      steady_upd (f := setHeader w0 w1) (fun _ => ⟨rfl, rfl, rfl⟩) steady_done

theorem steady_rxRuntOp (c : Params) : Steady (rxRuntOp c) := by
  unfold rxRuntOp rxRunt
  exact steady_test (steady_upd (f := logRunt) (fun _ => ⟨rfl, rfl, rfl⟩) steady_answer) steady_answer

theorem steady_rxAddrOp (c : Params) : Steady (rxAddrOp c) := by
  unfold rxAddrOp rxAddr
  exact steady_reg8 fun _ => steady_reg16 fun _ => steady_remoteRead _ _ _ <| steady_fifoWords _
      (fun ws => steady_upd (f := setAddresses (ethOfWords ws)) (fun _ => ⟨rfl, rfl, rfl⟩) steady_done) _ _

theorem steady_rxDropOp (c : Params) : Steady (rxDropOp c) := by
  unfold rxDropOp rxDrop
  exact steady_frameRec (fun s => ⟨by simp, by simp, by simp⟩) fun _ => steady_upd (fun _ => ⟨rfl, rfl, rfl⟩) <|
    steady_upd (fun _ => ⟨rfl, rfl, rfl⟩) <|
      steady_upd (f := setFr none) (fun _ => ⟨rfl, rfl, rfl⟩) (steady_upd (fun _ => ⟨rfl, rfl, rfl⟩) steady_done)

theorem steady_rxAdvanceOp (c : Params) : Steady (rxAdvanceOp c) := by
  unfold rxAdvanceOp rxAdvance
  exact steady_upd (f := advanceNext) (fun _ => ⟨rfl, rfl, rfl⟩) <| steady_neCommand _ _ <| steady_reg8 fun _ =>
      steady_bnryWrite _ _ steady_done

theorem steady_rxAck (c : Params) : Steady (rxAck c) := by
  unfold rxAck
  exact steady_selectPage _ _ <| steady_reg8 fun _ => steady_neWr steady_done

theorem steady_rxAllocOp (c : Params) : Steady (rxAllocOp c) := by
  unfold rxAllocOp rxAlloc
  refine steady_handle (fun s => ⟨by simp, by simp, by simp⟩) fun r => ?_
  cases r with
  | none =>
    exact steady_log <| steady_upd (fun _ => ⟨rfl, rfl, rfl⟩) (steady_upd (calm_setResult _) steady_done)
  | some h =>
    refine steady_reg16 fun n => steady_handle (fun s => ⟨by simp, by simp, by simp⟩) fun r => ?_
    cases r with
    | none =>
      exact steady_upd (fun _ => ⟨rfl, rfl, rfl⟩) <| steady_upd (fun _ => ⟨rfl, rfl, rfl⟩) <| steady_log <|
        steady_upd (calm_setResult _) steady_done
    | some b => exact steady_upd (fun _ => ⟨rfl, rfl, rfl⟩) (steady_upd (calm_setResult _) steady_done)

/-! ## Operations -/

/-- The operations whose parts change what 60 R301 asks of the engine. -/
def isGated : Instr → Bool
  | .neHook | .neLbclr | .rxPayload | .rxFrame | .qEnq _ | .qDeq | .qSize | .qWait => true
  | _ => false

/-- Every other operation is steady. -/
theorem steady_instr (c : Params) (i : Instr) (h : isGated i = false) : Steady (instrProg c i) := by
  cases i
  case pnpWr | pnpWake | pnpSetcsn | pnpRegConfigControl | pnpRegWake | pnpRegCsn | pnpRegLogicalDevice |
    pnpRegActivate | pnpRegIoRangeCheck | pnpRegIoBaseHi | pnpRegIoBaseLo | pnpRegIrqLevel | pnpRegIrqType =>
    exact steady_cfgWr steady_done
  case pnpRd | pnpRegSerialIsolation | pnpRegResourceData | pnpRegStatus => exact steady_cfgRd fun _ => steady_answer
  case rdBody | tagVersion | tagLogdev | tagCompat | tagIrq | tagDma | tagIoport | tagEnd | tagAnsi =>
    exact steady_readBody _ _ _ _
  case recVersion => exact steady_runRecord .version _ _
  case recLogdev => exact steady_runRecord .logdev _ _
  case recCompat => exact steady_runRecord .compat _ _
  case recIrq => exact steady_runRecord .irq _ _
  case recDma => exact steady_runRecord .dma _ _
  case recIoport => exact steady_runRecord .ioport _ _
  case recAnsi => exact steady_runRecord .ansi _ _
  case recMem | recMem32 => exact steady_recMemory _ _ _ _
  case neCmd | neDmaStop | cmdStop | cmdStart | cmdRread => exact steady_neCommand _ _ steady_done
  case neBnryWr | neCurrWr | neIrqen => exact steady_selectPage _ _ (steady_neWr steady_done)
  case neRsar | neRbcr => exact steady_selectPage _ _ (steady_neWr (steady_neWr steady_done))
  case neBnryRd | neCurrRd => exact steady_selectPage _ _ (steady_neRd fun _ => steady_answer)
  case neRegRd | neFifoRd8 => exact steady_neRd fun _ => steady_answer
  case neHook | neLbclr | rxPayload | rxFrame | qEnq | qDeq | qSize | qWait =>
    exact Bool.noConfusion h
  case tagMem | tagMem32 => exact steady_memoryRecord _ _ _
  case lfsrShift | pnpAddr | pnpIsosel | idDecode | isoEnum | pnpEngine | recEnd | recUnknown | neRegWr |
    rxClassify | qGuard | smallUnknown0 | smallUnknown6 | smallUnknown7 | smallUnknown9 | smallUnknownA |
    smallUnknownB | smallUnknownC | smallUnknownD | smallUnknownE | largeUnknown | sampleOne | sampleZero |
    sampleNocard => exact steady_done
  case keySend => exact steady_keySend c
  case pnpSetrdp => exact steady_setRdp _ _ steady_done
  case idSample => exact steady_idSample steady_sampleResult
  case idRead => exact steady_idReadOp c
  case isoRound => exact steady_isoRound _ _
  case rdByte => exact steady_rdByte c
  case rdHeader => exact steady_rdHeader c
  case rdDecode =>
    exact steady_upd (fun _ => ⟨rfl, rfl, rfl⟩) (steady_upd (fun _ => ⟨rfl, rfl, rfl⟩) (steady_last (calm_push _)))
  case cfgMatch => exact steady_ld fun _ => steady_answer
  case cfgSelect => exact steady_cfgSelect _ _ _ steady_done
  case cfgIo => exact steady_cfgIoOp _ _ _ _
  case cfgProbe => exact steady_cfgProbe _ _ _ fun _ => steady_answer
  case cfgIrq => exact steady_cfgIrq _ _ fun _ => steady_done
  case cfgActivate => exact steady_cfgActivate _ _ _ steady_done
  case cfgDevice => exact steady_cfgDevice _ _ _ steady_done
  case cfgAll => exact steady_cfgAll c
  case nePage => exact steady_selectPage _ _ steady_done
  case neRdmaRead => exact steady_remoteRead _ _ _ steady_done
  case neFifoRd16 => exact steady_neRd16 fun _ => steady_answer
  case neBind => exact steady_bind steady_answer steady_done
  case neInit => exact steady_bind (steady_last (calm_push _)) (steady_last fun _ => ⟨rfl, rfl, rfl⟩)
  case neReset => exact steady_neReset c
  case neBasicinit => exact steady_neBasicinit c
  case neProm => exact steady_neProm c
  case neMac => exact steady_neMac c
  case neRing => exact steady_neRing c
  case neStart => exact steady_neStart c
  case rxIrq => exact steady_rxIrq c
  case rxPending => exact steady_rxPendingOp c
  case rxHdr => exact steady_rxHdrOp c
  case rxRunt => exact steady_rxRuntOp c
  case rxAlloc => exact steady_rxAllocOp c
  case rxAddr => exact steady_rxAddrOp c
  case rxDrop => exact steady_rxDropOp c
  case rxAdvance => exact steady_rxAdvanceOp c
  case rxAck => exact steady_rxAck c
  case pnpRegSetRdData => exact steady_cfgWr (steady_upd (fun _ => ⟨rfl, rfl, rfl⟩) steady_done)

end Sys2Proof.Machine
end

