-- ==== Sys2Proof/Tests/Slice0.lean ====
section
/-! SUPPORT. Tests. Expected words are written out from 30 R101 to R132, expected effects from the examples of the
rules and the vectors of spec 95; the witnesses show states that meet the hypotheses of the statements. -/

namespace Sys2Proof.Tests

open Machine

/-! ## Ill-formed terms -/

theorem wf_refuses_read_port : Instr.wellFormed (.pnpSetrdp 0x204) = false := by decide
theorem wf_refuses_read_port_above : Instr.wellFormed (.pnpSetrdp 0x403) = false := by decide
theorem wf_refuses_csn_zero : Instr.wellFormed (.pnpSetcsn 0) = false := by decide
theorem wf_refuses_csn_eleven : Instr.wellFormed (.pnpSetcsn 11) = false := by decide
theorem wf_refuses_device_index : Instr.wellFormed (.rdDecode 10) = false := by decide
theorem wf_refuses_ld_index : Instr.wellFormed (.cfgSelect 0 4) = false := by decide
theorem wf_refuses_io_index : Instr.wellFormed (.cfgIo 0 0 8) = false := by decide
theorem wf_refuses_page : Instr.wellFormed (.nePage 65536) = false := by decide
theorem wf_refuses_empty_read : Instr.wellFormed (.neRdmaRead 0x4000 0) = false := by decide
theorem wf_refuses_offset : Instr.wellFormed (.neRegWr 0x20 0) = false ∧ Instr.wellFormed (.neRegRd 0x20) = false := by
  decide
theorem wf_refuses_frame_length :
    Instr.wellFormed (.qEnq ⟨1, 2, ⟨⟨0, 0, 0, 0, 0, 0⟩, ⟨0, 0, 0, 0, 0, 0⟩, 0x0800⟩, 2, [0x55]⟩) = false := by decide
theorem wf_refuses_frame_handle :
    Instr.wellFormed (.qEnq ⟨65536, 2, ⟨⟨0, 0, 0, 0, 0, 0⟩, ⟨0, 0, 0, 0, 0, 0⟩, 0x0800⟩, 1, [0x55]⟩) = false := by decide
theorem wf_refuses_known_large_tag : Instr.wellFormed (.largeUnknown 0x82 0) = false := by decide
theorem wf_refuses_small_as_large : Instr.wellFormed (.largeUnknown 0x7F 0) = false := by decide
theorem wf_refuses_sample : Instr.wellFormed (.sampleNocard 0xAA55) = false := by decide
theorem wf_refuses_read_port_byte : Instr.wellFormed (.pnpRegSetRdData 0x7F) = false := by decide
theorem wf_refuses_csn_byte : Instr.wellFormed (.pnpRegCsn 0) = false := by decide
theorem wf_refuses_page_bits : Instr.wellFormed (.cmdStop 3) = false := by decide
theorem wf_refuses_long_body (b : List Byte) (h : b.length = 65536) : Instr.wellFormed (.recAnsi b) = false := by
  simp [Instr.wellFormed, bodyFits, h]
theorem wf_refuses_long_line (b : List Byte) (h : b.length = 65536) :
    Instr.wellFormed (.qGuard [⟨.op, b⟩]) = false := by
  simp [Instr.wellFormed, bodyFits, Line.fits, h]

/-! ## Decoding, one word for every constructor -/

/-- Each line reads as the instruction beside it, with no byte left over. -/
def readsAs (f : Format) (rows : List (List Byte × Instr)) : Bool :=
  rows.all fun r => decide (decode f r.1 = .ok (r.2, []))

theorem decode_isolation : readsAs .op [
    ([0x01, 0x6A, 0x01], .lfsrShift 0x6A true),
    ([0x02], .keySend),
    ([0x03, 0x07], .pnpAddr 0x07),
    ([0x04, 0x03, 0x05], .pnpWr 0x03 0x05),
    ([0x05, 0x05], .pnpRd 0x05),
    ([0x06, 0x02], .pnpWake 0x02),
    ([0x07, 0xFF, 0x03], .pnpSetrdp 0x3FF),
    ([0x08], .pnpIsosel),
    ([0x09, 0x0A], .pnpSetcsn 0x0A),
    ([0x0A], .idSample),
    ([0x0B], .idRead),
    ([0x0C], .idDecode),
    ([0x0D, 0x00], .isoRound false),
    ([0x0E], .isoEnum),
    ([0x0F], .pnpEngine)] = true := by decide

theorem decode_decoder : readsAs .op [
    ([0x10], .rdByte),
    ([0x11], .rdHeader),
    ([0x12, 0x03, 0x01], .rdBody 0x0103),
    ([0x13, 0x02, 0x00, 0x10, 0x01], .recVersion [0x10, 0x01]),
    ([0x14, 0x01, 0x00, 0x41], .recLogdev [0x41]),
    ([0x15, 0x01, 0x00, 0x42], .recCompat [0x42]),
    ([0x16, 0x01, 0x00, 0x43], .recIrq [0x43]),
    ([0x17, 0x01, 0x00, 0x44], .recDma [0x44]),
    ([0x18, 0x01, 0x00, 0x45], .recIoport [0x45]),
    ([0x19, 0x01, 0x00, 0x46], .recAnsi [0x46]),
    ([0x1A, 0x01, 0x00, 0x47], .recEnd [0x47]),
    ([0x1B, 0x01, 0x00, 0x48], .recMem [0x48]),
    ([0x1C, 0x00, 0x00], .recMem32 []),
    ([0x1D, 0x01, 0x83], .recUnknown .large 0x83),
    ([0x1E, 0x09], .rdDecode 9)] = true := by decide

theorem decode_allocator : readsAs .op [
    ([0x20, 0x01, 0x02], .cfgMatch 1 2),
    ([0x21, 0x03, 0x00], .cfgSelect 3 0),
    ([0x22, 0x01, 0x02, 0x03], .cfgIo 1 2 3),
    ([0x23, 0x80, 0x02, 0x20], .cfgProbe 0x280 0x20),
    ([0x24, 0x01, 0x02], .cfgIrq 1 2),
    ([0x25, 0x01, 0x02], .cfgActivate 1 2),
    ([0x26, 0x01, 0x02], .cfgDevice 1 2),
    ([0x27], .cfgAll)] = true := by decide

theorem decode_accessors : readsAs .op [
    ([0x30, 0x07, 0x00], .nePage 7),
    ([0x31, 0x21], .neCmd 0x21),
    ([0x32, 0x45], .neBnryWr 0x45),
    ([0x33, 0x46], .neCurrWr 0x46),
    ([0x34, 0x04, 0x41], .neRsar 0x4104),
    ([0x35, 0x4A, 0x00], .neRbcr 0x004A),
    ([0x36, 0x00, 0x40, 0x04, 0x00], .neRdmaRead 0x4000 4),
    ([0x37], .neFifoRd16),
    ([0x38], .neDmaStop),
    ([0x39, 0x0E, 0x41], .neRegWr 0x0E 0x41),
    ([0x3A], .neBnryRd),
    ([0x3B], .neCurrRd),
    ([0x3C, 0x07], .neRegRd 0x07),
    ([0x3D], .neFifoRd8)] = true := by decide

theorem decode_initialisation : readsAs .op [
    ([0x40], .neBind),
    ([0x41], .neReset),
    ([0x42], .neBasicinit),
    ([0x43], .neProm),
    ([0x44], .neMac),
    ([0x45], .neRing),
    ([0x46], .neStart),
    ([0x47], .neIrqen),
    ([0x48], .neHook),
    ([0x49], .neLbclr),
    ([0x4A], .neInit)] = true := by decide

theorem decode_receive : readsAs .op [
    ([0x50], .rxIrq),
    ([0x51], .rxPending),
    ([0x52], .rxHdr),
    ([0x53], .rxRunt),
    ([0x54], .rxAlloc),
    ([0x55], .rxAddr),
    ([0x56], .rxClassify),
    ([0x57], .rxPayload),
    ([0x58], .rxDrop),
    ([0x59], .rxAdvance),
    ([0x5A], .rxFrame),
    ([0x5B], .rxAck)] = true := by decide

theorem decode_queue : readsAs .op [
    ([0x60, 0x01, 0x00, 0x00, 0x01, 0x00, 0x62], .qGuard [⟨.op, [0x62]⟩]),
    ([0x61, 0x01, 0x00, 0x02, 0x00, 1, 2, 3, 4, 5, 6, 7, 8, 9, 10, 11, 12, 0x06, 0x08, 0x01, 0x00, 0x55], .qEnq ⟨1, 2, ⟨⟨1, 2, 3, 4, 5, 6⟩, ⟨7, 8, 9, 10, 11, 12⟩, 0x0806⟩, 1, [0x55]⟩),
    ([0x62], .qDeq),
    ([0x63], .qSize),
    ([0x64], .qWait)] = true := by decide

theorem decode_small_headers : readsAs .resource [
    ([0b00001010], .tagVersion 2),
    ([0b00010101], .tagLogdev 5),
    ([0b00011100], .tagCompat 4),
    ([0b00100011], .tagIrq 3),
    ([0b00101010], .tagDma 2),
    ([0b01000111], .tagIoport 7),
    ([0b01111001], .tagEnd 1),
    ([0b00000001], .smallUnknown0 1),
    ([0b00110000], .smallUnknown6 0),
    ([0b00111000], .smallUnknown7 0),
    ([0b01001011], .smallUnknown9 3),
    ([0b01010000], .smallUnknownA 0),
    ([0b01011000], .smallUnknownB 0),
    ([0b01100000], .smallUnknownC 0),
    ([0b01101000], .smallUnknownD 0),
    ([0b01110111], .smallUnknownE 7)] = true := by decide

theorem decode_large_headers : readsAs .resource [
    ([0b10000001, 0x09, 0x00], .tagMem 9),
    ([0b10000010, 0x03, 0x01], .tagAnsi 0x0103),
    ([0b10000101, 0x11, 0x00], .tagMem32 17),
    ([0b10000011, 0x00, 0x02], .largeUnknown 0x83 0x0200)] = true := by decide

theorem decode_samples : readsAs .sample [
    ([0x55, 0xAA], .sampleOne),
    ([0xFF, 0xFF], .sampleZero),
    ([0xAA, 0x55], .sampleNocard 0x55AA)] = true := by decide

theorem decode_card_registers : readsAs .pnp [
    ([0x00, 0x80], .pnpRegSetRdData 0x80),
    ([0x01], .pnpRegSerialIsolation),
    ([0x02, 0x02], .pnpRegConfigControl 0x02),
    ([0x03, 0x01], .pnpRegWake 0x01),
    ([0x04], .pnpRegResourceData),
    ([0x05], .pnpRegStatus),
    ([0x06, 0x0A], .pnpRegCsn 0x0A),
    ([0x07, 0x03], .pnpRegLogicalDevice 0x03),
    ([0x30, 0x01], .pnpRegActivate 0x01),
    ([0x31, 0x00], .pnpRegIoRangeCheck 0x00),
    ([0x60, 0x02], .pnpRegIoBaseHi 0 0x02),
    ([0x6E, 0x02], .pnpRegIoBaseHi 7 0x02),
    ([0x63, 0x80], .pnpRegIoBaseLo 1 0x80),
    ([0x70, 0x05], .pnpRegIrqLevel 0x05),
    ([0x71, 0x02], .pnpRegIrqType 0x02)] = true := by decide

theorem decode_commands : readsAs .ne [
    ([0b00100001], .cmdStop 0),
    ([0b10100010], .cmdStart 2),
    ([0b01001010], .cmdRread 1)] = true := by decide

theorem decode_refuses :
    decode .op [0x1F] = .error (.unassigned 0x1F) ∧ decode .op [] = .error .truncated ∧
    decode .op [0x04, 0x03] = .error .truncated ∧ decode .op [0x0D, 0x02] = .error (.badFlag 0x02) ∧
    decode .pnp [0x32, 0x00] = .error (.unassigned 0x32) ∧ decode .ne [0x26] = .error (.unassigned 0x26) := by decide

theorem table_word_sample : decodeTableWord 16 0xAA55 = some .sampleOne := by decide
theorem table_word_op : decodeTableWord 8 0x5A = some .rxFrame := by decide

/-! ## Small states -/

/-- Dictate the answers of the port reads to come. -/
def answering (as : List Half) (s : State) : State := { s with bus := { s.bus with answers := as } }

/-- The NE2000 logical device of spec 95 section 3.5, its range one port wide. -/
def lan : LogicalDevice :=
  { LogicalDevice.empty with
    id := Config.neIdentity
    io := [⟨0x01, 0x280, 0x3FF, 0x20, 1, 0x60, none⟩]
    irq := some ⟨0x0020, 0x01, 0x70, none⟩ }

/-- The main context after the key, read port 0x203, one card with one NE2000 being decoded. -/
def pnp : State :=
  { State.reset with
    iso := { IsoRegs.reset with rdp := 0x203, keySent := true }
    dec := ⟨0x10, .index 0, 0x60, 0x70, some 0⟩
    dev := [⟨⟨0x50, 0x4E, 0x50⟩, 0x80D6, 0x12345678, 1, { Crd.empty with lds := [lan], valid := true }⟩]
    wr := { Written.reset with rdp := true, id := true, csum := true, curld := true } }

/-- The same with the logical device active at base 0x280. -/
def bound : State :=
  { pnp with
    nic := ⟨0x280, some .p0, [0x00, 0x11, 0x22, 0x33, 0x44, 0x55] ++ List.replicate 26 0, 0x40, .queueQ, true⟩
    wr := { pnp.wr with prom := true, nextPkt := true } }

def frameRec : FrameRec := ⟨0, 1, 3, some ⟨⟨1, 2, 3, 4, 5, 6⟩, ⟨7, 8, 9, 10, 11, 12⟩, 0x0806⟩⟩

/-- A handler run with a header read and a record allocated. -/
def handling : State :=
  { bound with
    phase := .running
    rx := ⟨0x01, 0x01, 0x41, 78, 0x0806, some frameRec⟩
    fl := ⟨true, true, true, false⟩
    wr := { bound.wr with isrseen := true, hdr := true, etype := true, fr := true }
    ctl := ⟨true, .reset, .reset⟩
    heap := ⟨[(1, 3), (0, 24)], 2⟩ }

def aFrame : Frame := ⟨0, 1, ⟨⟨1, 2, 3, 4, 5, 6⟩, ⟨7, 8, 9, 10, 11, 12⟩, 0x0806⟩, 1, [0x55]⟩

/-- `MEM_RECORDS = store_raw`. -/
def storing (s : State) : State := { s with cfg := { s.cfg with memRecords := .storeRaw } }

/-- Dictate the request line and the delays to come. -/
def asserting (ls : List Bool) (ds : List Nat) (s : State) : State :=
  { s with bus := { s.bus with lineAnswers := ls, delays := ds } }

/-- What a step answers, asked of one part of the next state. -/
def ask {α : Type} (f : State → α) (a : Answer) : Option α :=
  match a with
  | .next s => some (f s)
  | .fault _ => none
  | .refused _ => none

def after {α : Type} (f : State → α) (i : Instr) (s : State) : Option α := ask f (exec i s)
def traceOf (s : State) : List Event := s.bus.trace
def logOf (s : State) : List Failure := s.log

/-! ## One step each, from the rules' examples -/

theorem test_lfsrShift : after State.result (.lfsrShift 0x6A false) pnp = some (.byte 0xB5) := by decide
set_option maxRecDepth 8000 in
theorem test_keySend : after (fun s => (s.iso.lfsr, s.iso.keySent, s.bus.trace.length)) .keySend State.reset =
    some (0x9C, true, 34) := by decide
theorem test_pnpAddr : after traceOf (.pnpAddr 0x01) pnp = some [.wr8 0x279 0x01] := by decide
theorem test_pnpWr : after traceOf (.pnpWr 0x03 0x00) pnp = some [.wr8 0x279 0x03, .wr8 0xA79 0x00] := by decide
theorem test_pnpWr_csn : exec (.pnpWr 0x06 0x00) pnp = .refused .badCsn ∧ exec (.pnpWr 0x06 0x0B) pnp = .refused .badCsn :=
  ⟨rfl, rfl⟩
theorem test_pnpRd : after State.result (.pnpRd 0x05) (answering [0x01] pnp) = some (.byte 0x01) := by decide
theorem test_pnpWake : after traceOf (.pnpWake 0) pnp = some [.wr8 0x279 0x03, .wr8 0xA79 0x00] := by decide
theorem test_pnpSetrdp : after (fun s => (s.iso.rdp, s.bus.trace)) (.pnpSetrdp 0x207) pnp =
    some (0x207, [.wr8 0x279 0x00, .wr8 0xA79 0x81]) := by decide
theorem test_pnpIsosel : after traceOf .pnpIsosel pnp = some [.wr8 0x279 0x01] := by decide
theorem test_pnpSetcsn : after traceOf (.pnpSetcsn 1) pnp = some [.wr8 0x279 0x06, .wr8 0xA79 0x01] := by decide
theorem test_idSample : after State.result .idSample (answering [0x55, 0xAA] pnp) = some (.bit true) := by decide
theorem test_idSample_swapped :
    after State.result .idSample (answering [0xAA, 0x55] pnp) = some (.failed (.noCard 0x55AA)) := by decide
/-- 95 V12: bits 1, 0, 0, then 0xFF55. -/
theorem test_idRead_aborts :
    after (fun s => (s.result, s.iso.bitcnt, s.iso.lfsr, s.bus.trace.length)) .idRead
      (answering [0x55, 0xAA, 0xFF, 0xFF, 0xFF, 0xFF, 0x55, 0xFF] pnp) =
    some (.failed (.noCard 0xFF55), 3, 0xCD, 8) := by decide
/-- 40 R151: `41 D0 80 D6 78 56 34 12`. -/
theorem test_idDecode :
    after State.result .idDecode { pnp with iso := { pnp.iso with id := 0xAD12345678D680D041 } } =
    some (.identity ⟨0x50, 0x4E, 0x50⟩ 0x80D6 0x12345678) := by decide
theorem test_isoRound_none :
    after (fun s => (s.result, s.bus.trace.take 3)) (.isoRound false) (answering [0x00, 0x00] pnp) =
    some (.noneFound, [.wr8 0x279 0x03, .wr8 0xA79 0x00, .wr8 0x279 0x01]) := by decide
theorem test_isoEnum : after (fun s => s.ctl.main.todo) .isoEnum pnp = some [.enumAt 0] := by decide
theorem test_pnpEngine : after (fun s => s.ctl.main.todo.head?) .pnpEngine State.reset =
    some (some (.op .keySend)) := by decide
theorem test_rdByte : after (fun s => (s.result, s.dec.csum)) .rdByte (answering [0x01, 0x0A] pnp) =
    some (.byte 0x0A, 0x1A) := by decide
theorem test_rdByte_waits : after (fun s => s.ctl.main.todo) .rdByte (answering [0x00] pnp) =
    some [.op .rdByte] := by decide
theorem test_rdHeader_small : after State.result .rdHeader (answering [0x01, 0x47] pnp) =
    some (.header .small 0x8 7) := by decide
theorem test_rdHeader_large : after State.result .rdHeader (answering [1, 0x82, 1, 0x03, 1, 0x01] pnp) =
    some (.header .large 0x82 0x0103) := by decide
theorem test_rdBody : after (fun s => (s.result, s.dec.csum)) (.rdBody 2) (answering [1, 0x20, 1, 0x03] pnp) =
    some (.body [0x20, 0x03], 0x33) := by decide
theorem test_recVersion : after (fun s => ((s.device 0).crd.version, (s.device 0).crd.vendorVersion))
    (.recVersion [0x10, 0x01]) pnp = some (0x10, 0x01) := by decide
theorem test_recLogdev : after (fun s => ((s.ld 0 1).id, s.dec.curld, s.dec.iocfg))
    (.recLogdev [0x41, 0xD0, 0x80, 0xD6, 0x00]) pnp =
    some (⟨⟨0x50, 0x4E, 0x50⟩, 0x80D6⟩, .index 1, 0x60) := by decide
theorem test_recCompat : after (fun s => (s.ld 0 0).compat) (.recCompat [0x4A, 0x8C, 0x80, 0x19]) pnp =
    some [⟨⟨0x52, 0x54, 0x4C⟩, 0x8019⟩] := by decide
theorem test_recIrq_second : after logOf (.recIrq [0x20, 0x00]) pnp = some [.capacityIrq] := by decide
theorem test_recDma : after (fun s => (s.ld 0 0).dma) (.recDma [0x08]) pnp = some (some ⟨0x08, 0x00⟩) := by decide
theorem test_recIoport : after (fun s => ((s.ioRange 0 0 1).minBase, (s.ioRange 0 0 1).cfgreg, s.dec.iocfg))
    (.recIoport [0x01, 0x80, 0x02, 0xFF, 0x03, 0x20, 0x20]) pnp = some (0x280, 0x60, 0x62) := by decide
theorem test_recAnsi : after (fun s => (s.ld 0 0).ident) (.recAnsi [0x4C, 0x44]) pnp =
    some (some [0x4C, 0x44]) := by decide
/-- 41 R180: the bytes before sum to 0x5B, `cs = 0xA4` leaves 0xFF. -/
theorem test_recEnd : after State.result (.recEnd [0xA4]) { pnp with dec := { pnp.dec with csum := 0xFF } } =
    some .fail := by decide
theorem test_recMem : after (fun s => (s.ld 0 0).mem) (.recMem [0x01, 0x02]) (storing pnp) =
    some [⟨.mem16, [0x01, 0x02]⟩] := by decide
theorem test_recMem32 : after (fun s => (s.ld 0 0).mem) (.recMem32 [0x01]) (storing pnp) = some [⟨.mem32, [0x01]⟩] := by
  decide
/-- 41 R181: reached only with `MEM_RECORDS = store_raw`; 0x81 is its tag. -/
theorem test_recMem_rejected : after (fun s => (s.ld 0 0).mem) (.recMem [0x01, 0x02]) pnp = some [] ∧
    after logOf (.recMem [0x01, 0x02]) pnp = some [.unknownTag .large 0x81] := by decide
theorem test_recUnknown : after (fun s => (s.result, s.log)) (.recUnknown .small 0x6) pnp =
    some (.failed (.unknownTag .small 0x6), [.unknownTag .small 0x6]) := by decide
theorem test_rdDecode : after (fun s => (s.dec.curld, s.ctl.main.todo)) (.rdDecode 0) pnp =
    some (.none, [.op .rdHeader, .decodeDispatch, .decodeNext]) := by decide

theorem test_cfgMatch : after State.result (.cfgMatch 0 0) pnp = some (.bool true) := by decide
theorem test_cfgSelect : after traceOf (.cfgSelect 0 0) pnp =
    some [.wr8 0x279 0x03, .wr8 0xA79 0x01, .wr8 0x279 0x07, .wr8 0xA79 0x00] := by decide
/-- 95 V51 with one port: the first candidate is occupied, 0x2A0 is clean on all four reads. -/
theorem test_cfgIo_second : after (fun s => (s.result, (s.ioRange 0 0 0).assigned)) (.cfgIo 0 0 0)
    (answering [0x00, 0xFF, 0xFF, 0xFF, 0xFF] pnp) = some (.ok, some 0x2A0) := by decide
/-- 42 R203 with a range of six ports: the sixth read is 0x00. -/
theorem test_cfgProbe : after (fun s => (s.result, s.bus.trace.length)) (.cfgProbe 0x280 6)
    (answering [0xFF, 0xFF, 0xFF, 0xFF, 0xFF, 0x00] pnp) = some (.occupied, 6) := by decide
theorem test_cfgIrq : after (fun s => (s.bus.trace, (s.ld 0 0).irq.map IrqRes.assigned)) (.cfgIrq 0 0) pnp =
    some ([.wr8 0x279 0x70, .wr8 0xA79 0x05, .wr8 0x279 0x71, .wr8 0xA79 0x02], some (some 5)) := by decide
theorem test_cfgActivate : after (fun s => (s.bus.trace, (s.ld 0 0).active)) (.cfgActivate 0 0) pnp =
    some ([.wr8 0x279 0x07, .wr8 0xA79 0x00, .wr8 0x279 0x31, .wr8 0xA79 0x00, .wr8 0x279 0x30, .wr8 0xA79 0x01],
      true) := by decide
theorem test_cfgDevice : after (fun s => (s.result, (s.ld 0 0).active, (s.ioRange 0 0 0).assigned)) (.cfgDevice 0 0)
    (answering [0xFF, 0xFF, 0xFF, 0xFF] pnp) = some (.ok, true, some 0x280) := by decide
/-- 42 R201: any logical device number is selected. -/
theorem test_cfgSelect_unused : after traceOf (.cfgSelect 0 3) pnp =
    some [.wr8 0x279 0x03, .wr8 0xA79 0x01, .wr8 0x279 0x07, .wr8 0xA79 0x03] := by decide
theorem test_cfgAll_skips_invalid :
    after traceOf .cfgAll { pnp with dev := pnp.dev.map fun d => { d with crd := { d.crd with valid := false } } } =
    some [] := by decide

theorem test_nePage_again : after traceOf (.nePage 7) bound = some [] := by decide
/-- 95 V77: `CR` reads 0x4A. -/
theorem test_nePage_read_first : after traceOf (.nePage 0)
    (answering [0x4A] { bound with nic := { bound.nic with page := some .p1 } }) =
    some [.rd8 0x280 0x4A, .wr8 0x280 0x22] := by decide
theorem test_neCmd : after traceOf (.neCmd 0xE2) { bound with nic := { bound.nic with page := some .p2 } } =
    some [.wr8 0x280 0xA2] := by decide
theorem test_neBnryWr : after traceOf (.neBnryWr 0x45) bound = some [.wr8 0x283 0x45] := by decide
theorem test_neBnryRd : after State.result .neBnryRd (answering [0x40] bound) = some (.byte 0x40) := by decide
/-- 95 V85: the page is 0, so page 1 is selected first. -/
theorem test_neCurrRd : after traceOf .neCurrRd (answering [0x22, 0x41] bound) =
    some [.rd8 0x280 0x22, .wr8 0x280 0x62, .rd8 0x287 0x41] := by decide
theorem test_neCurrWr : after traceOf (.neCurrWr 0x40) (answering [0x22] bound) =
    some [.rd8 0x280 0x22, .wr8 0x280 0x62, .wr8 0x287 0x40] := by decide
theorem test_neRsar : after traceOf (.neRsar 0x4104) bound = some [.wr8 0x288 0x04, .wr8 0x289 0x41] := by decide
theorem test_neRbcr : after traceOf (.neRbcr 0x004A) bound = some [.wr8 0x28A 0x4A, .wr8 0x28B 0x00] := by decide
theorem test_neRdmaRead : after traceOf (.neRdmaRead 0x4104 0x004A) bound =
    some [.wr8 0x288 0x04, .wr8 0x289 0x41, .wr8 0x28A 0x4A, .wr8 0x28B 0x00, .wr8 0x280 0x0A] := by decide
theorem test_neFifoRd16 : after State.result .neFifoRd16 (answering [0x4101] bound) = some (.half 0x4101) := by decide
theorem test_neFifoRd8 : after State.result .neFifoRd8 (answering [0x55] bound) = some (.byte 0x55) := by decide
theorem test_neDmaStop : after traceOf .neDmaStop bound = some [.wr8 0x280 0x22] := by decide
theorem test_neRegWr : after traceOf (.neRegWr 0x0E 0x41) bound = some [.wr8 0x28E 0x41] := by decide
theorem test_neRegRd : after State.result (.neRegRd 0x07) (answering [0x80] bound) = some (.byte 0x80) := by decide

/-- The table with its logical device active at `b`. -/
def activeAt (b : Option Half) : State :=
  modLd 0 0 (fun l => { l with active := true, io := l.io.map fun r => { r with assigned := b } }) pnp

theorem test_neBind : after (fun s => (s.result, s.nic.iobase, s.nic.bound)) .neBind (activeAt (some 0x280)) =
    some (.ok, 0x280, true) := by decide
theorem test_neBind_none : after (fun s => (s.result, s.log)) .neBind pnp = some (.failed .noNic, [.noNic]) := by decide
theorem test_neReset : after (fun s => (s.phase, s.bus.trace)) .neReset (answering [0xFF, 0x80] bound) =
    some (.neReset, [.rd8 0x29F 0xFF, .wr8 0x29F 0xFF, .rd8 0x287 0x80]) := by decide
theorem test_neBasicinit : after traceOf .neBasicinit (answering [0x21] { bound with nic := { bound.nic with page := none } }) =
    some [.rd8 0x280 0x21, .wr8 0x280 0x21, .wr8 0x280 0x21, .wr8 0x28E 0x41, .wr8 0x28A 0x00, .wr8 0x28B 0x00,
      .wr8 0x28C 0x04, .wr8 0x28D 0x02] := by decide
theorem test_neProm : after (fun s => s.nic.prom.take 6) .neProm
    (answering ([0x1100, 0x3322, 0x5544] ++ List.replicate 13 0) bound) =
    some [0x00, 0x11, 0x22, 0x33, 0x44, 0x55] := by decide
theorem test_neMac : after (fun s => s.bus.trace.drop 2) .neMac (answering [0x22] bound) =
    some [.wr8 0x281 0x00, .wr8 0x282 0x11, .wr8 0x283 0x22, .wr8 0x284 0x33, .wr8 0x285 0x44, .wr8 0x286 0x55] := by
  decide
theorem test_neRing : after traceOf .neRing (answering [0x21, 0x61] bound) =
    some [.wr8 0x281 0x40, .wr8 0x282 0x80, .wr8 0x283 0x40, .rd8 0x280 0x21, .wr8 0x280 0x61, .wr8 0x287 0x40,
      .rd8 0x280 0x61, .wr8 0x280 0x21] := by decide
theorem test_neStart : after (fun s => (s.phase, s.bus.trace)) .neStart (answering [0x00] bound) =
    some (.neStarted, [.wr8 0x280 0x22, .rd8 0x287 0x00]) := by decide
theorem test_neIrqen : after traceOf .neIrqen bound = some [.wr8 0x28F 0x01] := by decide
theorem test_neHook : after (fun s => (s.fl.handlerSet, s.fl.lineMasked, s.phase)) .neHook (asserting [false] [] bound) =
    some (true, false, .neInterruptsEnabled) := by decide
/-- 60 R301: a run starts once the line is unmasked, before the last write. -/
theorem test_neHook_split : after (fun s => (s.ctl.inIrq, s.phase)) .neHook (asserting [true] [0] bound) =
    some (true, .powerOn) := by decide
theorem test_neLbclr : after (fun s => (s.bus.trace, s.fl.ifl)) .neLbclr bound =
    some ([.wr8 0x28E 0x49, .wr8 0x28D 0x00], true) := by decide
theorem test_neInit : after (fun s => s.ctl.main.todo.take 2) .neInit { activeAt (some 0x280) with phase := .configured } =
    some [.op .neReset, .op .neBasicinit] := by decide

theorem test_rxIrq : after (fun s => (s.rx.isrseen, s.ctl.irq.todo)) .rxIrq (answering [0x41] handling) =
    some (0x41, [.irqLoop]) := by decide
theorem test_rxPending : after State.result .rxPending (answering [0x22, 0x41] handling) = some (.bool true) := by decide
/-- 44 R262: card bytes `01 41 4E 00`. -/
theorem test_rxHdr : after (fun s => (s.rx.hdrStatus, s.rx.hdrNext, s.rx.hdrTotal)) .rxHdr
    (answering [0x4101, 0x004E] handling) = some (0x01, 0x41, 78) := by decide
theorem test_rxRunt_63 : after (fun s => (s.result, s.log)) .rxRunt { handling with rx := { handling.rx with hdrTotal := 63 } } =
    some (.bool true, [.runt 63]) := by decide
theorem test_rxRunt_64 : after (fun s => (s.result, s.log)) .rxRunt { handling with rx := { handling.rx with hdrTotal := 64 } } =
    some (.bool false, []) := by decide
theorem test_rxAlloc_payload_fails : after (fun s => (s.rx.fr, s.log, s.heap.live)) .rxAlloc
    { handling with bus := { handling.bus with allocAnswers := [true, false] } } =
    some (none, [.allocPayload 60], handling.heap.live) := by decide
/-- 44 R265: the seventh word is 0x0608. -/
theorem test_rxAddr : after (fun s => (s.rx.etype, (s.rx.fr.bind FrameRec.eth).map EthHeader.dst)) .rxAddr
    (answering [0xFFFF, 0xFFFF, 0xFFFF, 0x1100, 0x3322, 0x5544, 0x0608] handling) =
    some (0x0806, some ⟨0xFF, 0xFF, 0xFF, 0xFF, 0xFF, 0xFF⟩) := by decide
theorem test_rxClassify_0600 : after State.result .rxClassify { handling with rx := { handling.rx with etype := 0x0600 } } =
    some .etherI := by decide
theorem test_rxClassify_0601 : after State.result .rxClassify { handling with rx := { handling.rx with etype := 0x0601 } } =
    some .etherII := by decide
theorem test_rxPayload_odd : after (fun s => (s.q.map Frame.payload, s.rx.fr)) .rxPayload
    (answering [0x0201, 0x03] handling) = some ([[0x01, 0x02, 0x03]], none) := by decide
theorem test_rxPayload_noAddresses : after (fun s => (s.q.map Frame.payload, s.rx.fr)) .rxPayload
    (answering [0x0201, 0x03] { handling with rx := { handling.rx with fr := some { frameRec with eth := none } } }) =
    some ([[0x01, 0x02, 0x03]], none) := by decide
theorem test_rxDrop_none : after (fun s => (s.log, s.rx.fr)) .rxDrop { handling with rx := { handling.rx with fr := none } } =
    some ([.ethernetI 0x0806], none) := by decide
theorem test_rxDrop : after (fun s => (s.heap.live, s.log, s.q)) .rxDrop handling = some ([], [.ethernetI 0x0806], []) := by
  decide
theorem test_rxAdvance : after (fun s => (s.nic.nextPkt, s.bus.trace)) .rxAdvance handling =
    some (0x41, [.wr8 0x280 0x22, .wr8 0x283 0x40]) := by decide
theorem test_rxFrame_runt : after (fun s => (s.nic.nextPkt, s.q, s.log)) .rxFrame (answering [0x4101, 50] handling) =
    some (0x41, [], [.runt 50]) := by decide
theorem test_rxAck : after traceOf .rxAck handling = some [.wr8 0x287 0x01] := by decide

theorem test_qGuard : after (fun s => (s.fl.ifl, s.ctl.main.todo)) (.qGuard [⟨.op, [0x62]⟩]) pnp =
    some (false, [.line ⟨.op, [0x62]⟩, .restoreIf true]) := by decide
theorem test_qEnq : after (fun s => (s.q, s.fl.ifl)) (.qEnq aFrame) pnp = some ([aFrame], true) := by decide
theorem test_qDeq : after (fun s => (s.result, s.q, s.taken)) .qDeq { pnp with q := [aFrame] } =
    some (.frame aFrame, [], [aFrame]) := by decide
theorem test_qSize : after State.result .qSize { pnp with q := [aFrame, aFrame] } = some (.count 2) := by decide
theorem test_qWait_empty : after (fun s => (s.result, s.ctl.main.todo)) .qWait pnp =
    some (.noFrame, [.waitHalt, .op .qWait]) := by decide

/-- 95 V33: seven bytes are expected, six come; the missing byte is 0. -/
theorem test_tagIoport_short : after (fun s => (s.log, (s.ioRange 0 0 1).len)) (.tagIoport 6)
    (answering (readyAnswers [0x01, 0x80, 0x02, 0xFF, 0x03, 0x20]) pnp) = some ([.lengthMismatch 0x8 6], 0) := by decide
theorem test_tagVersion : after (fun s => (s.device 0).crd.version) (.tagVersion 2) (answering (readyAnswers [0x10, 0]) pnp) =
    some 0x10 := by decide
theorem test_tagLogdev : after (fun s => s.dec.curld) (.tagLogdev 5)
    (answering (readyAnswers [0x41, 0xD0, 0x80, 0xD6, 0]) pnp) = some (.index 1) := by decide
theorem test_tagCompat : after (fun s => (s.ld 0 0).compat.length) (.tagCompat 4)
    (answering (readyAnswers [0x41, 0xD0, 0x80, 0xD6]) pnp) = some 1 := by decide
theorem test_tagIrq : after logOf (.tagIrq 2) (answering (readyAnswers [0x20, 0]) pnp) = some [.capacityIrq] := by decide
theorem test_tagDma : after (fun s => (s.ld 0 0).dma) (.tagDma 2) (answering (readyAnswers [0x08, 0]) pnp) =
    some (some ⟨0x08, 0⟩) := by decide
theorem test_tagEnd : after State.result (.tagEnd 1) (answering (readyAnswers [0xF0]) pnp) = some .pass := by decide
theorem test_tagAnsi : after (fun s => (s.ld 0 0).ident) (.tagAnsi 1) (answering (readyAnswers [0x4E]) pnp) =
    some (some [0x4E]) := by decide
theorem test_tagMem_rejected : after logOf (.tagMem 9) pnp = some [.unknownTag .large 0x81] := by decide
theorem test_tagMem32_stored : after (fun s => (s.log, (s.ld 0 0).mem.length)) (.tagMem32 1)
    (answering (readyAnswers [0xAA]) { pnp with cfg := { pnp.cfg with memRecords := .storeRaw } }) =
    some ([.lengthMismatch 0x85 1], 1) := by decide
theorem test_smallUnknown : after logOf (.smallUnknown6 0) pnp = some [.unknownTag .small 0x6] ∧
    after logOf (.smallUnknown0 0) pnp = some [.unknownTag .small 0x0] ∧
    after logOf (.smallUnknown7 0) pnp = some [.unknownTag .small 0x7] ∧
    after logOf (.smallUnknown9 0) pnp = some [.unknownTag .small 0x9] ∧
    after logOf (.smallUnknownA 0) pnp = some [.unknownTag .small 0xA] ∧
    after logOf (.smallUnknownB 0) pnp = some [.unknownTag .small 0xB] ∧
    after logOf (.smallUnknownC 0) pnp = some [.unknownTag .small 0xC] ∧
    after logOf (.smallUnknownD 0) pnp = some [.unknownTag .small 0xD] ∧
    after logOf (.smallUnknownE 0) pnp = some [.unknownTag .small 0xE] := by decide
theorem test_largeUnknown : after (fun s => (s.result, s.bus.trace)) (.largeUnknown 0x83 4) pnp =
    some (.failed (.unknownTag .large 0x83), []) := by decide
theorem test_samples : after State.result .sampleOne pnp = some (.bit true) ∧
    after State.result .sampleZero pnp = some (.bit false) ∧
    after State.result (.sampleNocard 0x55AA) pnp = some (.failed (.noCard 0x55AA)) := by decide
theorem test_reg_setRdData : after (fun s => s.iso.rdp) (.pnpRegSetRdData 0xFF) pnp = some 0x3FF := by decide
theorem test_reg_reads :
    after traceOf .pnpRegSerialIsolation (answering [0x55] pnp) = some [.wr8 0x279 0x01, .rd8 0x203 0x55] ∧
    after traceOf .pnpRegResourceData (answering [0x0A] pnp) = some [.wr8 0x279 0x04, .rd8 0x203 0x0A] ∧
    after traceOf .pnpRegStatus (answering [0x01] pnp) = some [.wr8 0x279 0x05, .rd8 0x203 0x01] := by decide
theorem test_reg_writes :
    after traceOf (.pnpRegConfigControl 0x02) pnp = some [.wr8 0x279 0x02, .wr8 0xA79 0x02] ∧
    after traceOf (.pnpRegWake 0x01) pnp = some [.wr8 0x279 0x03, .wr8 0xA79 0x01] ∧
    after traceOf (.pnpRegCsn 0x02) pnp = some [.wr8 0x279 0x06, .wr8 0xA79 0x02] ∧
    after traceOf (.pnpRegLogicalDevice 0x01) pnp = some [.wr8 0x279 0x07, .wr8 0xA79 0x01] ∧
    after traceOf (.pnpRegActivate 0x01) pnp = some [.wr8 0x279 0x30, .wr8 0xA79 0x01] ∧
    after traceOf (.pnpRegIoRangeCheck 0x00) pnp = some [.wr8 0x279 0x31, .wr8 0xA79 0x00] := by decide
theorem test_reg_pairs :
    after traceOf (.pnpRegIoBaseHi 7 0x02) pnp = some [.wr8 0x279 0x6E, .wr8 0xA79 0x02] ∧
    after traceOf (.pnpRegIoBaseLo 1 0x80) pnp = some [.wr8 0x279 0x63, .wr8 0xA79 0x80] ∧
    after traceOf (.pnpRegIrqLevel 0x05) pnp = some [.wr8 0x279 0x70, .wr8 0xA79 0x05] ∧
    after traceOf (.pnpRegIrqType 0x02) pnp = some [.wr8 0x279 0x71, .wr8 0xA79 0x02] := by decide
theorem test_commands :
    after traceOf (.cmdStop 1) bound = some [.wr8 0x280 0x21] ∧
    after traceOf (.cmdStart 0) bound = some [.wr8 0x280 0x22] ∧
    after traceOf (.cmdRread 2) bound = some [.wr8 0x280 0x0A] := by decide

/-! ## Steps, the interrupt, the host's word -/

theorem test_step_reset : ask (fun s => s.ctl.main.todo.length) (step State.reset) = some 5 := by decide
theorem test_word_runs : ask traceOf (step (pnp.withFetchWord 8 0x08)) = some [.wr8 0x279 0x01] := by decide
set_option maxRecDepth 8000 in
theorem test_word_first : ask (fun s => s.iso.lfsr) (step (State.reset.withFetchWord 8 0x02)) = some 0x9C := by decide

/-- Other numbers than the defaults: the wake register and a record's tag (00 R9). -/
def renumbered (s : State) : State :=
  { s with cfg := { s.cfg with num := { s.cfg.num with wake := 0x13, tagLogdev := 0x3, tagCompat := 0x2 } } }

theorem test_number_register : after traceOf (.pnpWake 0x02) (renumbered pnp) = some [.wr8 0x279 0x13, .wr8 0xA79 0x02] := by
  decide
theorem test_number_tag : decodeAt (renumbered pnp).cfg.num .resource [0b00010101] = .ok (.tagCompat 5, []) := by decide

/-- 60 R301: a run starts between the two accesses of `NE.PAGE`; afterwards the byte read before it is written. -/
theorem test_split : ask traceOf (match exec .neCurrRd (answering [0x22] (asserting [false, true] [0] { bound with fl := ⟨true, false, true, false⟩ })) with
    | .next s => runTask (.resume (.op .neCurrRd) [.byte 0x22, .page (some .p0)])
        (answering [0x41] { s with ctl := { s.ctl with inIrq := false }, fl := { s.fl with lineMasked := true } })
    | a => a) = some [.rd8 0x280 0x22, .wr8 0x280 0x62, .rd8 0x287 0x41] := by decide

/-- 60 R301, 41 R178: a run starts after the third field of a new range; the range counts when the rest is written. -/
theorem test_split_record :
    let s := asserting [false, false, false, false, true] [0] { pnp with fl := ⟨true, false, true, false⟩ }
    let body := [0x01, 0x80, 0x02, 0xFF, 0x03, 0x20, 0x08]
    after (fun s => ((s.ld 0 0).io.length, s.ctl.inIrq, s.fresh)) (.recIoport body) s =
      some (1, true, some (.io ⟨0x01, 0x280, 0x3FF, 0, 0, 0, none⟩)) ∧
    ask (fun s => (s.ioRange 0 0 1, s.fresh, s.dec.iocfg)) (match exec (.recIoport body) s with
      | .next t => match t.ctl.main.todo with
        | r :: _ => runTask r { t with ctl := { t.ctl with inIrq := false } }
        | [] => .next t
      | a => a) = some (⟨0x01, 0x280, 0x3FF, 0x20, 8, 0x60, none⟩, none, 0x62) := by decide

/-- The main context halted with the handler live and the line asserted. -/
def halted : State :=
  { bound with
    phase := .running
    fl := ⟨true, false, true, true⟩
    ctl := ⟨false, ⟨[.op .qWait], .noFrame⟩, .reset⟩
    bus := { bound.bus with lineAnswers := [true, true], delays := [1] } }

theorem test_delivery_waits : ask (fun s => (s.fl.halted, s.ctl.inIrq)) (step halted) = some (true, false) := by decide
theorem test_delivery : ask (fun s => (s.fl.halted, s.ctl.inIrq, s.fl.lineMasked)) (Host.Core.run core 2 halted) =
    some (false, true, true) := by decide
theorem test_return : (boundary (answering [] { handling with bus := { handling.bus with lineAnswers := [false] } })).ctl.inIrq = false := by decide
theorem test_halt_line : ask (fun s => s.fl.halted) (runTask .waitHalt bound) = some true := by decide


/-! ## States and operands that meet the hypotheses of the statements -/

theorem pnp_ready : PnpReady pnp := ⟨rfl, rfl, rfl⟩
theorem pnp_stream (as : List Half) : StreamReady 0x203 (answering as pnp) := ⟨⟨pnp_ready, rfl, rfl⟩, rfl⟩
theorem pnp_decoding : DecodingAt 0 pnp := ⟨pnp_ready, rfl, by decide, rfl⟩
theorem pnp_curld : CurldInUse 0 pnp := fun j h => by
  cases h
  decide
theorem pnp_ld : LdThere pnp 0 0 := ⟨by decide, by decide⟩
theorem pnp_table : TableInv pnp := by
  refine ⟨by decide, fun i d h => ?_, fun _ h => (by cases h), fun _ h => (by cases h)⟩
  cases i with
  | zero =>
    cases h
    exact ⟨rfl, by decide, fun l hl => by
      cases List.mem_singleton.mp hl
      exact ⟨by decide, by decide, by decide, rfl⟩⟩
  | succ n => simp [pnp] at h
theorem bound_init : InitReady bound := ⟨rfl, rfl, rfl⟩
theorem handling_rx : RxReady handling := ⟨rfl, rfl, .inl rfl⟩
theorem handling_heap : HeapInv handling := by
  refine ⟨?_, ?_⟩ <;> decide

/-- The card table with its one logical device changed. -/
def withLd (f : LogicalDevice → LogicalDevice) (s : State) : State := modLd 0 0 f s

/-- `n` devices in the table. -/
def devices (n : Nat) (s : State) : State := { s with dev := List.replicate n (s.device 0) }

def at_ (c : CurLd) (s : State) : State := { s with dec := { s.dec with curld := c } }
def resulting (r : Result) (s : State) : State := setResult r s

theorem witness_DecodeOfEncode : Instr.wellFormed (.cfgIo 9 3 7) = true ∧ Instr.wellFormed (.pnpSetcsn 10) = true ∧
    Instr.wellFormed (.largeUnknown 0xFF 0xFFFF) = true ∧ Instr.wellFormed (.qEnq aFrame) = true := by decide

theorem witness_HeaderSelectsRecord : (0x7F : Byte).getLsbD 7 = false ∧ (0x80 : Byte).getLsbD 7 = true ∧
    ((0x84 : Byte) ≠ 0x81 ∧ (0x84 : Byte) ≠ 0x82 ∧ (0x84 : Byte) ≠ 0x85) := by decide

theorem witness_StepRunsDecoded :
    (let s := setTodo [.line ⟨.op, [0x08]⟩] pnp;
      s.cfg.ok = true ∧ s.fl.halted = false ∧ s.active.todo = [.line ⟨.op, [0x08]⟩] ∧
        decodeAt s.cfg.num .op [0x08] = .ok (.pnpIsosel, [])) ∧
    (let s := setTodo [.line ⟨.ne, [0x22]⟩] handling;
      s.cfg.ok = true ∧ s.ctl.inIrq = true ∧ s.active.todo = [.line ⟨.ne, [0x22]⟩] ∧
        decodeAt s.cfg.num .ne [0x22] = .ok (.cmdStart 0, [])) ∧
    State.reset.cfg.ok = true ∧ State.reset.cfg.num = .default ∧
    decodeTableWord 24 0x010003 = some (.pnpAddr 0x00) := by decide

theorem witness_SequenceFollowsPhase :
    (∀ p ∈ [Phase.powerOn, .configured, .running, .noNic],
      let s := { pnp with phase := p };
      s.cfg.ok = true ∧ s.ctl.inIrq = false ∧ s.fl.halted = false ∧ s.ctl.main.todo = [] ∧ s.phase = p) ∧
    ({ pnp with cfg := { pnp.cfg with probePasses := 1 } } : State).cfg.ok = false := by decide

theorem witness_KeySend : State.reset.ctl.inIrq = false ∧ Quiet State.reset := ⟨rfl, rfl⟩

theorem witness_CardAccess : PnpReady pnp ∧ PortReady 0x203 (answering [0x101, 0x02] pnp) ∧
    (answering [0x101, 0x02] pnp).bus.answers = 0x101 :: [0x02] ∧
    ((1 ≤ (1 : Byte).toNat ∧ (1 : Byte).toNat ≤ 10) ∧ (1 ≤ (10 : Byte).toNat ∧ (10 : Byte).toNat ≤ 10)) ∧
    ((0 : Byte) = 0 ∧ 10 < (11 : Byte).toNat) ∧ (0xFF : Byte) ≠ pnp.cfg.num.csn :=
  ⟨pnp_ready, ⟨pnp_ready, rfl, rfl⟩, rfl, by decide, by decide, by decide⟩

set_option maxRecDepth 4000 in
theorem witness_SetReadPort : PnpReady pnp ∧ 0 < 128 ∧ 127 < 128 ∧
    (∀ k < 128, (0x202 : Half).toNat ≠ 0x203 + 4 * k) ∧ ∀ k < 128, (0x403 : Half).toNat ≠ 0x203 + 4 * k :=
  ⟨pnp_ready, by decide, by decide, by decide, by decide⟩

theorem witness_RegisterAndSampleRows : PnpReady pnp ∧ PortReady 0x203 pnp ∧ (0x7F : Byte).toNat < 0x80 ∧
    (1 ≤ (1 : Byte).toNat ∧ (10 : Byte).toNat ≤ 10) ∧ ((0x55AA : Half) ≠ 0xAA55 ∧ (0x55AA : Half) ≠ 0xFFFF) :=
  ⟨pnp_ready, ⟨pnp_ready, rfl, rfl⟩, by decide, by decide, by decide⟩

theorem witness_IdSample : PortReady 0x203 (answering [0x55, 0xAA, 0x01] pnp) ∧
    (answering [0x55, 0xAA, 0x01] pnp).bus.answers = 0x55 :: 0xAA :: [0x01] := ⟨⟨pnp_ready, rfl, rfl⟩, rfl⟩

theorem witness_IdRead :
    (let s := answering (idAnswers 0xAD12345678D680D041 ++ [0x01]) pnp;
      PortReady 0x203 s ∧ s.bus.answers = idAnswers 0xAD12345678D680D041 ++ [0x01]) ∧
    (let bits := List.replicate 71 true;
      let s := answering (bits.flatMap sampleAnswers ++ 0x55 :: 0xFF :: []) pnp;
      PortReady 0x203 s ∧ bits.length < 72 ∧ ((0xFF : Half).setWidth 8 ++ (0x55 : Half).setWidth 8 : Half) ≠ 0xAA55 ∧
        ((0xFF : Half).setWidth 8 ++ (0x55 : Half).setWidth 8 : Half) ≠ 0xFFFF ∧
        s.bus.answers = bits.flatMap sampleAnswers ++ 0x55 :: 0xFF :: []) :=
  ⟨⟨⟨pnp_ready, rfl, rfl⟩, rfl⟩, ⟨pnp_ready, rfl, rfl⟩, by simp, by decide, by decide, rfl⟩

theorem witness_IdReadDeterministic :
    let s₁ := answering [0x00, 0x12] pnp;
    let s₂ := { answering [0x00, 0x12, 0x01] pnp with iso := { pnp.iso with rdp := 0x207, bitcnt := 9 } };
    s₁.wr.rdp = true ∧ s₁.iso.rdp = 0x203 ∧ s₂.wr.rdp = true ∧ s₂.iso.rdp = 0x207 ∧ Quiet s₁ ∧ Quiet s₂ ∧
      ∃ t₁ t₂, exec .idRead s₁ = .next t₁ ∧ exec .idRead s₂ = .next t₂ ∧
        t₁.bus.trace = s₁.bus.trace ++ [0x00, 0x12].map (Event.rd8 0x203) ∧
        t₂.bus.trace = s₂.bus.trace ++ [0x00, 0x12].map (Event.rd8 0x207) :=
  ⟨rfl, rfl, rfl, rfl, rfl, rfl, _, _, rfl, rfl, rfl, rfl⟩

theorem witness_EmptyBus :
    (let as := List.replicate 144 (0x1FF : Half);
      let s := answering (as ++ [0x00]) pnp;
      PortReady 0x203 s ∧ as.length = 144 ∧ (∀ a ∈ as, a.setWidth 8 = 0xFF#8) ∧ s.bus.answers = as ++ [0x00]) ∧
    ∃ t, exec .idRead (answering [0x00, 0x12] pnp) = .next t ∧ t.result = .failed (.noCard 0x1200) :=
  ⟨⟨⟨pnp_ready, rfl, rfl⟩, by simp, fun a h => by rw [List.eq_of_mem_replicate h]; decide, rfl⟩, _, rfl, rfl⟩

theorem witness_IdDecode : PnpReady pnp ∧ pnp.wr.id = true := ⟨pnp_ready, rfl⟩

set_option maxRecDepth 8000 in
/-- A good identifier, one whose checksum fails, a bad sample after 71 good ones, and a full table. -/
theorem witness_IsoRound :
    (let s := answering (idAnswers 0xB50000000000000000 ++ []) (devices 9 pnp);
      PortReady 0x203 s ∧ s.dev.length < 10 ∧ s.bus.answers = idAnswers 0xB50000000000000000 ++ []) ∧
    (0xB50000000000000000 : BitVec 72).extractLsb' 64 8 = idChecksum 0xB50000000000000000 ∧
    ¬ (0 : BitVec 72).extractLsb' 64 8 = idChecksum 0 ∧
    (let bits := List.replicate 71 true;
      let s := answering (bits.flatMap sampleAnswers ++ 0x55 :: 0xFF :: []) (devices 9 pnp);
      PortReady 0x203 s ∧ s.dev.length < 10 ∧ bits.length < 72 ∧
        ((0xFF : Half).setWidth 8 ++ (0x55 : Half).setWidth 8 : Half) ≠ 0xAA55 ∧
        ((0xFF : Half).setWidth 8 ++ (0x55 : Half).setWidth 8 : Half) ≠ 0xFFFF ∧
        s.bus.answers = bits.flatMap sampleAnswers ++ 0x55 :: 0xFF :: []) ∧
    (PortReady 0x203 (devices 10 pnp) ∧ 10 ≤ (devices 10 pnp).dev.length) :=
  ⟨⟨⟨pnp_ready, rfl, rfl⟩, by decide, rfl⟩, by decide, by decide,
    ⟨⟨pnp_ready, rfl, rfl⟩, by decide, by simp, by decide, by decide, rfl⟩, ⟨pnp_ready, rfl, rfl⟩, by decide⟩

theorem witness_ScanSteps :
    (State.reset.ctl.inIrq = false ∧ State.reset.phase = .powerOn) ∧
    (let s := { pnp with phase := .configured };
      s.ctl.inIrq = false ∧ s.phase ≠ .powerOn) ∧
    (PnpReady pnp ∧ 0 < 128 ∧ 127 < 128) ∧
    (PnpReady (devices 9 pnp) ∧ (devices 9 pnp).dev.length < 10) ∧
    (PnpReady (devices 10 pnp) ∧ 10 ≤ (devices 10 pnp).dev.length) ∧
    (PnpReady (resulting .found pnp) ∧ (resulting .found pnp).result = .found) ∧
    (PnpReady (resulting .noneFound pnp) ∧ (resulting .noneFound pnp).result ≠ .found) :=
  ⟨⟨rfl, rfl⟩, ⟨rfl, by decide⟩, ⟨pnp_ready, by decide, by decide⟩, ⟨pnp_ready, by decide⟩, ⟨pnp_ready, by decide⟩,
    ⟨pnp_ready, rfl⟩, pnp_ready, by decide⟩

theorem witness_RdByte : StreamReady 0x203 (answering [0xFF, 0x0A, 0x02] pnp) ∧
    (answering [0xFF, 0x0A, 0x02] pnp).bus.answers = 0xFF :: 0x0A :: [0x02] ∧ (0xFF : Half).getLsbD 0 = true :=
  ⟨pnp_stream _, rfl, by decide⟩

theorem witness_RdHeader :
    (StreamReady 0x203 (answering (readyAnswers [0x7F] ++ []) pnp) ∧ (0x7F : Byte).getLsbD 7 = false) ∧
    (StreamReady 0x203 (answering (readyAnswers [0x80, 0xFF, 0xFF] ++ []) pnp) ∧ (0x80 : Byte).getLsbD 7 = true) ∧
    (let s := answering (readyAnswers [0xFF, 0x01] ++ [0x00]) pnp;
      StreamReady 0x203 s ∧ ([0x80] ++ [0xFF, 0x01] : List Byte) = [0x80, 0xFF, 0x01] ∧ ([0xFF, 0x01] : List Byte) ≠ [] ∧
        s.bus.answers = readyAnswers [0xFF, 0x01] ++ [0x00]) ∧
    (let s := answering [0xFE, 0x01] pnp;
      StreamReady 0x203 s ∧ ([0x80, 0xFF] : List Byte).length < 3 ∧ (0xFE : Half).getLsbD 0 = false ∧
        s.bus.answers = 0xFE :: [0x01]) ∧
    PnpReady pnp :=
  ⟨⟨pnp_stream _, by decide⟩, ⟨pnp_stream _, by decide⟩, ⟨pnp_stream _, rfl, by decide, rfl⟩,
    ⟨pnp_stream _, by decide, by decide, rfl⟩, pnp_ready⟩

theorem witness_RdBody :
    (StreamReady 0x203 (answering (readyAnswers [0x20, 0x03] ++ [0x00]) pnp) ∧
      ([0x20, 0x03] : List Byte).length = (2 : Half).toNat) ∧
    (StreamReady 0x203 (answering (readyAnswers [] ++ []) pnp) ∧ ([] : List Byte).length = (0 : Half).toNat) ∧
    (StreamReady 0x203 (answering [0x00] pnp) ∧ (0x00 : Half).getLsbD 0 = false ∧
      (answering [0x00] pnp).bus.answers = 0x00 :: []) :=
  ⟨⟨pnp_stream _, by decide⟩, ⟨pnp_stream _, by decide⟩, pnp_stream _, by decide, rfl⟩

/-- Both sides of every capacity, and the two states without a logical device to attach to. -/
theorem witness_AttachedRecords :
    (DecodingAt 0 (storing pnp) ∧ CurldInUse 0 (storing pnp) ∧ pnp.dec.curld = .index (0 : Fin 4) ∧
      (storing pnp).cfg.memRecords = .storeRaw) ∧
    ((pnp.ld 0 0).compat.length < 10 ∧ (pnp.ld 0 0).dma = none ∧ (pnp.ld 0 0).irq ≠ none) ∧
    (let s := withLd (fun l => { l with compat := List.replicate 10 l.id, irq := none, dma := some ⟨0, 0⟩ }) pnp;
      DecodingAt 0 s ∧ CurldInUse 0 s ∧ s.dec.curld = .index (0 : Fin 4) ∧ ¬ (s.ld 0 0).compat.length < 10 ∧
        (s.ld 0 0).irq = none ∧ (s.ld 0 0).dma ≠ none) ∧
    (let s := storing
        (withLd (fun l => { l with io := List.replicate 7 IoRange.empty, mem := List.replicate 3 ⟨.mem16, []⟩ }) pnp);
      DecodingAt 0 s ∧ CurldInUse 0 s ∧ s.dec.curld = .index (0 : Fin 4) ∧ (s.ld 0 0).io.length < 8 ∧
        (s.ld 0 0).mem.length < 4) ∧
    (let s := storing
        (withLd (fun l => { l with io := List.replicate 8 IoRange.empty, mem := List.replicate 4 ⟨.mem16, []⟩ }) pnp);
      DecodingAt 0 s ∧ CurldInUse 0 s ∧ s.dec.curld = .index (0 : Fin 4) ∧ ¬ (s.ld 0 0).io.length < 8 ∧
        ¬ (s.ld 0 0).mem.length < 4) ∧
    (DecodingAt 0 (at_ .none pnp) ∧ CurldInUse 0 (at_ .none pnp) ∧ (at_ .none pnp).dec.curld = .none) ∧
    (DecodingAt 0 (at_ .overflow pnp) ∧ CurldInUse 0 (at_ .overflow pnp) ∧
      (at_ .overflow pnp).dec.curld = .overflow) ∧
    (PnpReady pnp ∧ pnp.cfg.memRecords = .reject) :=
  ⟨⟨pnp_decoding, pnp_curld, rfl, rfl⟩, by decide, ⟨⟨pnp_ready, rfl, by decide, rfl⟩, pnp_curld, by decide⟩,
    ⟨⟨pnp_ready, rfl, by decide, rfl⟩, pnp_curld, by decide⟩, ⟨⟨pnp_ready, rfl, by decide, rfl⟩, pnp_curld, by decide⟩,
    ⟨⟨pnp_ready, rfl, by decide, rfl⟩, fun _ h => (by cases h), rfl⟩,
    ⟨⟨pnp_ready, rfl, by decide, rfl⟩, fun _ h => (by cases h), rfl⟩, pnp_ready, rfl⟩

/-- The table with `n` logical devices on its card. -/
def lds (n : Nat) (s : State) : State := modCrd 0 (fun c => { c with lds := List.replicate n lan }) s

theorem witness_CardRecords :
    (DecodingAt 0 (lds 3 pnp) ∧ ((lds 3 pnp).device 0).crd.lds.length = (3 : Fin 4)) ∧
    (DecodingAt 0 (lds 4 pnp) ∧ 4 ≤ ((lds 4 pnp).device 0).crd.lds.length) ∧
    (DecodingAt 0 (at_ .none pnp) ∧ (at_ .none pnp).dec.curld = .none) ∧
    (DecodingAt 0 (at_ (.index 3) pnp) ∧ (at_ (.index 3) pnp).dec.curld = .index 3) ∧
    (DecodingAt 0 (at_ .overflow pnp) ∧ (at_ .overflow pnp).dec.curld = .overflow) ∧
    (PnpReady pnp ∧ pnp.wr.csum = true ∧ (([] : List Byte).getD 0 0 = 0#8) ∧ ¬ ([0x01] : List Byte).getD 0 0 = 0#8 ∧
      ¬ pnp.dec.csum = 0#8) ∧
    (let s := { pnp with wr := Written.reset };
      PnpReady s ∧ s.wr.csum = false ∧ ([] : List Byte).getD 0 0 = 0#8) :=
  ⟨⟨⟨pnp_ready, rfl, by decide, rfl⟩, rfl⟩, ⟨⟨pnp_ready, rfl, by decide, rfl⟩, by decide⟩,
    ⟨⟨pnp_ready, rfl, by decide, rfl⟩, rfl⟩, ⟨⟨pnp_ready, rfl, by decide, rfl⟩, rfl⟩,
    ⟨⟨pnp_ready, rfl, by decide, rfl⟩, rfl⟩, ⟨pnp_ready, rfl, by decide, by decide, by decide⟩, pnp_ready, rfl, by decide⟩

theorem witness_TableUpdate : LdThere pnp 0 0 ∧ (1 ≠ 0 ∨ 0 ≠ 0) ∧ (0 ≠ 0 ∨ 3 ≠ 0) := ⟨pnp_ld, by decide, by decide⟩

theorem witness_RecordHeaders :
    (let bs := List.replicate 7 (0x01 : Byte);
      let s := storing (answering (readyAnswers bs ++ []) pnp);
      DecodingAt 0 s ∧ StreamReady 0x203 s ∧ s.bus.answers = readyAnswers bs ++ [] ∧ bs.length ≤ 7 ∧
        bs.length < 0x10000 ∧ s.cfg.memRecords = .storeRaw) ∧
    (let bs := List.replicate 8 (0x01 : Byte);
      let s := answering (readyAnswers bs ++ []) pnp;
      DecodingAt 0 s ∧ StreamReady 0x203 s ∧ s.bus.answers = readyAnswers bs ++ [] ∧ bs.length < 0x10000) ∧
    (PnpReady pnp ∧ pnp.cfg.memRecords = .reject) :=
  ⟨⟨⟨pnp_ready, rfl, by decide, rfl⟩, ⟨⟨pnp_ready, rfl, rfl⟩, rfl⟩, rfl, by decide, by decide, rfl⟩,
    ⟨⟨pnp_ready, rfl, by decide, rfl⟩, pnp_stream _, rfl, by decide⟩, pnp_ready, rfl⟩

theorem witness_DecodeLoop :
    (PnpReady pnp ∧ (0 : Byte).toNat < pnp.dev.length) ∧
    (let s := resulting (.header .small 0x8 7) pnp;
      PnpReady s ∧ s.result = .header .small 0x8 7) ∧
    (∀ r ∈ [Result.failed .idChecksum, .pass, .fail, .unit], (resulting r pnp).result = r ∧
      (resulting r pnp).dec.card = some 0) ∧
    DecodingAt 0 (resulting .pass pnp) ∧ ∀ f, (resulting .unit pnp).result ≠ .failed f :=
  ⟨⟨pnp_ready, by decide⟩, ⟨pnp_ready, rfl⟩, by decide, ⟨pnp_ready, rfl, by decide, rfl⟩, fun f h => by cases h⟩

theorem witness_CfgMatch : pnp.ctl.inIrq = false ∧ Quiet pnp ∧ LdThere pnp (0 : Byte).toNat (0 : Byte).toNat :=
  ⟨rfl, rfl, pnp_ld⟩

theorem witness_CfgCommits :
    (PnpReady pnp ∧ (0 : Byte).toNat < pnp.dev.length) ∧ (PnpReady pnp ∧ LdThere pnp (0 : Byte).toNat (0 : Byte).toNat ∧
      (pnp.ld 0 0).irq = some ⟨0x0020, 0x01, 0x70, none⟩ ∧ (0x0020 : Half).getLsbD 5 = true ∧
      (0x01 : Byte).getLsbD 0 = true) ∧
    (let s := withLd (fun l => { l with irq := some ⟨0xFFDF, 0x01, 0x70, none⟩ }) pnp;
      PnpReady s ∧ LdThere s (0 : Byte).toNat (0 : Byte).toNat ∧
        ∀ r, (s.ld 0 0).irq = some r → r.mask.getLsbD 5 = false ∨ r.info.getLsbD 0 = false) :=
  ⟨⟨pnp_ready, by decide⟩, ⟨pnp_ready, pnp_ld, rfl, by decide, by decide⟩, pnp_ready, ⟨by decide, by decide⟩,
    fun r h => by cases h; decide⟩

theorem witness_CfgProbe : pnp.ctl.inIrq = false ∧ Quiet pnp := ⟨rfl, rfl⟩

theorem witness_CfgIoSearch : PnpReady pnp ∧ LdThere pnp (0 : Byte).toNat (0 : Byte).toNat ∧
    (0 : Byte).toNat < (pnp.ld 0 0).io.length := ⟨pnp_ready, pnp_ld, by decide⟩

/-- The least candidate for a minimum of 0x280, and for a range whose minimum is not a multiple of its alignment. -/
theorem witness_CfgIoFirstCandidate :
    (let s := answering (List.replicate 4 0xFF ++ [0x00]) pnp;
      PnpReady s ∧ LdThere s (0 : Byte).toNat (0 : Byte).toNat ∧ (0 : Byte).toNat < (s.ld 0 0).io.length ∧
        alignment (s.ioRange 0 0 0) ∣ 0x280 ∧ max 0x280 (s.ioRange 0 0 0).minBase.toNat ≤ 0x280 ∧
        0x280 < max 0x280 (s.ioRange 0 0 0).minBase.toNat + alignment (s.ioRange 0 0 0) ∧
        IoTried (s.ioRange 0 0 0) 0x280 ∧
        s.bus.answers = List.replicate (2 * (s.ioRange 0 0 0).len.toNat * s.cfg.probePasses) 0xFF#16 ++ [0x00]) ∧
    (let d : IoRange := ⟨0x01, 0x281, 0x3FF, 0x20, 1, 0x60, none⟩;
      alignment d ∣ 0x2A0 ∧ max 0x280 d.minBase.toNat ≤ 0x2A0 ∧ 0x2A0 < max 0x280 d.minBase.toNat + alignment d ∧
        IoTried d 0x2A0) :=
  ⟨⟨pnp_ready, ⟨by decide, by decide⟩, by decide, by decide, by decide, by decide, ⟨by decide, by decide⟩, by decide⟩,
    by decide, by decide, by decide, by decide, by decide⟩

theorem witness_CfgDevice : PnpReady pnp ∧ LdThere pnp (0 : Byte).toNat (0 : Byte).toNat ∧
    (pnp.ld 0 0).io.length ≤ 8 := ⟨pnp_ready, pnp_ld, by decide⟩

theorem witness_CfgAll : PnpReady pnp ∧ TableInv pnp ∧ (pnp.device 7).crd.valid = false :=
  ⟨pnp_ready, pnp_table, rfl⟩

theorem bound_access : AccessReady bound := ⟨rfl, rfl⟩

theorem witness_NePage :
    (AccessReady bound ∧ bound.nic.page = some .p0 ∧ bound.nic.page ≠ some .p1) ∧
    (let s := { bound with nic := { bound.nic with page := none } };
      AccessReady s ∧ s.nic.page ≠ some .p2) ∧ pageOf 3 = pageOf 0 :=
  ⟨⟨bound_access, rfl, by decide⟩, ⟨bound_access, by decide⟩, rfl⟩

theorem witness_NeWrites : AccessReady bound ∧ (1 : Half) ≠ 0 ∧ (0x1F : Byte).toNat ≤ 0x1F ∧
    0x1F < (0x20 : Byte).toNat := ⟨bound_access, by decide, by decide, by decide⟩

theorem witness_NeReads : AccessReady (answering [0x155, 0x02] bound) ∧
    (answering [0x155, 0x02] bound).bus.answers = 0x155 :: [0x02] ∧ (0x1F : Byte).toNat ≤ 0x1F ∧
    0x1F < (0x20 : Byte).toNat := ⟨bound_access, rfl, by decide, by decide⟩

theorem ld_binds (b : Option Half) (l : LogicalDevice) (h : l ∈ validLds (activeAt b)) : bindsTo l := by
  cases List.mem_singleton.mp h
  exact ⟨rfl, .inl rfl, by simp [lan]⟩

theorem witness_NeBindInit :
    (pnp.ctl.inIrq = false ∧ Quiet pnp ∧ (∀ l ∈ validLds pnp, ¬ bindsTo l) ∧ ({ pnp with phase := .configured }).phase = .configured) ∧
    (∃ l r, validLds (activeAt (some 0x280)) = [] ++ l :: [] ∧ bindsTo l ∧ l.io = r :: [] ∧ r.assigned = some 0x280) ∧
    (∃ l r, validLds (activeAt none) = [] ++ l :: [] ∧ bindsTo l ∧ l.io = r :: [] ∧ r.assigned = none) ∧
    pnp.phase ≠ .configured :=
  ⟨⟨rfl, rfl, fun l h hb => (by cases List.mem_singleton.mp h; cases hb.1), rfl⟩,
    ⟨_, _, rfl, ld_binds _ _ (List.mem_singleton.mpr rfl), rfl, rfl⟩,
    ⟨_, _, rfl, ld_binds _ _ (List.mem_singleton.mpr rfl), rfl, rfl⟩, by decide⟩

theorem witness_NePolls :
    (InitReady (answering [0x00, 0x80, 0x01] bound) ∧
      (answering [0x00, 0x80, 0x01] bound).bus.answers = 0x00 :: 0x80 :: [0x01] ∧
      ((0x80 : Half).setWidth 8 : Byte).getLsbD bound.cfg.num.isrRst = true) ∧
    (InitReady (answering [0x7F] bound) ∧ (answering [0x7F] bound).bus.answers = 0x7F :: [] ∧
      ((0x7F : Half).setWidth 8 : Byte).getLsbD bound.cfg.num.isrRst = false) :=
  ⟨⟨bound_init, rfl, by decide⟩, bound_init, rfl, by decide⟩

theorem witness_NeSetup :
    (let s := answering (List.replicate 16 0x1100 ++ [0x01]) bound;
      InitReady s ∧ s.nic.prom.length = 32 ∧ s.nic.page = some .p0 ∧
        s.bus.answers = List.replicate 16 0x1100 ++ [0x01]) ∧
    (InitReady bound ∧ bound.wr.prom = true ∧
      bound.nic.prom = [0x00, 0x11, 0x22, 0x33, 0x44, 0x55] ++ List.replicate 26 0) ∧
    (let s := { bound with fl := { bound.fl with ifl := false } };
      s.ctl.inIrq = false ∧ s.nic.bound = true ∧ s.fl.ifl = false) ∧
    (∀ b : Bool, let s := asserting [b] [0] bound;
      s.ctl.inIrq = false ∧ s.nic.bound = true ∧ s.fl.handlerSet = false ∧ s.fl.lineMasked = true ∧ s.fl.ifl = true ∧
        s.bus.countdown = none ∧ s.bus.lineAnswers = b :: [] ∧ s.bus.delays = 0 :: []) ∧
    (∀ b : Bool, let s := { asserting [b] [0] bound with fl := ⟨true, false, true, false⟩ };
      Open s ∧ s.nic.bound = true ∧ ∃ t, exec .neLbclr s = .next t ∧ t.ctl.inIrq = b) :=
  ⟨⟨bound_init, rfl, rfl, rfl⟩, ⟨bound_init, rfl, rfl⟩, by decide, by decide, fun b => by
    cases b <;> exact ⟨⟨rfl, rfl, rfl, rfl, rfl⟩, rfl, _, rfl, rfl⟩⟩

/-- A pending frame, and none: page 1 is selected, so the first answer is the current page. -/
theorem witness_RxLoop :
    let s := { handling with nic := { handling.nic with page := some .p1 } };
    (RxReady s ∧ s.wr.nextPkt = true ∧ s.wr.isrseen = true) ∧
      after State.result .rxPending (answering [0x41] s) = some (.bool true) ∧
      after State.result .rxPending (answering [0x40] s) = some (.bool false) :=
  ⟨⟨handling_rx, rfl, rfl⟩, by decide, by decide⟩

/-- The handler run with this length and Ethertype. -/
def seen (total etype : Half) (s : State) : State := { s with rx := { s.rx with hdrTotal := total, etype := etype } }

/-- The registered handler's run before `PHASE` has reached `NeInterruptsEnabled` (log 34). -/
def early (s : State) : State := { s with phase := .neStarted }

/-- Each test at both sides of its bound, with the three preconditions of the receive operations. -/
theorem witness_RxTests :
    (∀ p : Half × Half, let s := seen p.1 p.2 handling
      s.ctl.inIrq = true ∧ s.nic.bound = true ∧ s.phase.handlerLive = true ∧ s.wr.hdr = true ∧ s.wr.etype = true) ∧
    (seen 63 0x0600 handling).rx.hdrTotal.toNat < 64 ∧ (seen 63 0x0600 handling).rx.etype.toNat ≤ 0x0600 ∧
    64 ≤ (seen 64 0x0601 handling).rx.hdrTotal.toNat ∧ 0x0600 < (seen 64 0x0601 handling).rx.etype.toNat :=
  ⟨fun _ => ⟨rfl, rfl, rfl, rfl, rfl⟩, by decide, by decide, by decide, by decide⟩

/-- The heap's answers to come. -/
def allocating (as : List Bool) (s : State) : State := { s with bus := { s.bus with allocAnswers := as } }

theorem witness_RxAlloc : ∀ as ∈ [[true, true, false], [true, false, false], [false, true, false]],
    RxReady (allocating as handling) ∧ (allocating as handling).wr.hdr = true ∧ HeapInv (allocating as handling) ∧
      ∃ x y rest, (allocating as handling).bus.allocAnswers = x :: y :: rest := by
  intro as h
  refine ⟨handling_rx, rfl, handling_heap, ?_⟩
  simp only [List.mem_cons, List.not_mem_nil, or_false] at h
  rcases h with rfl | rfl | rfl <;> exact ⟨_, _, _, rfl⟩

theorem witness_RxSteps :
    (RxReady handling ∧ handling.wr.nextPkt = true ∧ handling.wr.hdr = true ∧ handling.wr.etype = true) ∧
    (∃ e, handling.rx.fr = some frameRec ∧ frameRec.eth = some e) ∧
    BitVec.ofNat 16 (((handling.rx.hdrTotal - 4).toNat + 1) / 2 * 2) ≠ 0 ∧
    (let s := seen 4 0x0806 handling;
      RxReady s ∧ s.rx.fr = some frameRec ∧ BitVec.ofNat 16 (((s.rx.hdrTotal - 4).toNat + 1) / 2 * 2) = 0) ∧
    (∀ p : Half × Half, let s := early (seen p.1 p.2 handling)
      RxReady s ∧ s.phase.handlerLive = false ∧ s.wr.hdr = true ∧ s.wr.etype = true) :=
  ⟨⟨handling_rx, rfl, rfl, rfl⟩, ⟨_, rfl, rfl⟩, by decide, ⟨handling_rx, rfl, by decide⟩,
    fun _ => ⟨⟨rfl, rfl, .inr rfl⟩, rfl, rfl, rfl⟩⟩

theorem witness_RxFrameSequence : RxReady handling ∧ handling.wr.nextPkt = true := ⟨handling_rx, rfl⟩

/-- A runt, each refused request, Ethernet-I, and a frame of the least length that is enqueued. -/
theorem witness_RxFrameLaw :
    (∃ t, exec .rxFrame (answering [0x4101, 63] handling) = .next t ∧ t.rx.hdrTotal.toNat < 64) ∧
    (∃ t, exec .rxFrame (allocating [false] (answering [0x4101, 64] handling)) = .next t ∧ t.log = [.allocFrame]) ∧
    (∃ t, exec .rxFrame (allocating [true, false] (answering [0x4101, 64] handling)) = .next t ∧
      t.log = [.allocPayload 46]) ∧
    (∃ t, exec .rxFrame (allocating [true, true]
        (answering [0x4101, 64, 0, 0, 0, 0, 0, 0, 0x0006] handling)) = .next t ∧ t.log = [.ethernetI 0x0600]) ∧
    (∃ t, exec .rxFrame (allocating [true, true]
        (answering ([0x4101, 64, 0, 0, 0, 0, 0, 0, 0x0106] ++ List.replicate 23 0) handling)) = .next t ∧
      t.q.length = 1) ∧
    HeapInv handling :=
  ⟨⟨_, rfl, by decide⟩, ⟨_, rfl, rfl⟩, ⟨_, rfl, rfl⟩, ⟨_, rfl, rfl⟩, ⟨_, rfl, rfl⟩, handling_heap⟩

theorem witness_QueueOps : pnp.q = [] ∧ ({ pnp with q := [aFrame] } : State).q = aFrame :: [] := by decide

/-- The main context of a bound, running driver: the handler set, the line and `IF` open. -/
def listening : State := asserting [true] [0] { bound with phase := .running, fl := ⟨true, false, true, false⟩ }

/-- `Q.WAIT` undisturbed, split after its dequeue, and split before it halts. -/
theorem witness_QueueControl :
    (pnp.ctl.inIrq = false ∧ pnp.fl.ifl = true ∧ pnp.q = []) ∧
    (let s := { pnp with q := [aFrame] };
      s.ctl.inIrq = false ∧ s.fl.ifl = true ∧ s.q = aFrame :: []) ∧
    (let s := { listening with q := [aFrame] };
      s.ctl.inIrq = false ∧ s.fl.ifl = true ∧ s.q = aFrame :: [] ∧
        (deliver (setResult (.frame aFrame) { s with q := [], taken := [aFrame] })).ctl.inIrq = true) ∧
    (listening.ctl.inIrq = false ∧ listening.fl.ifl = true ∧ listening.q = [] ∧
      (deliver (setResult .noFrame listening)).ctl.inIrq = true) ∧
    (let s := asserting [false, true] [0] listening;
      s.ctl.inIrq = false ∧ s.fl.ifl = true ∧ s.q = [] ∧ (deliver (setResult .noFrame s)).ctl.inIrq = false ∧
        (deliver (deliver (setResult .noFrame s))).ctl.inIrq = true) ∧
    ((resulting (.frame aFrame) pnp).result = .frame aFrame ∧ (resulting .noFrame pnp).result = .noFrame ∧
      (resulting .noFrame pnp).fl.ifl = true ∧ (resulting .noFrame pnp).deliverable = false) ∧
    (let s := { pnp with fl := { pnp.fl with ifl := false } };
      s.ctl.inIrq = false ∧ s.fl.ifl = false) := by decide

theorem witness_Interrupts :
    ¬ (pnp.fl.handlerSet = true ∧ pnp.fl.lineMasked = false ∧ pnp.fl.ifl = true ∧ pnp.ctl.inIrq = false) ∧
    (∀ b : Bool, let s := asserting [b] [0] listening;
      s.fl.handlerSet = true ∧ s.fl.lineMasked = false ∧ s.fl.ifl = true ∧ s.ctl.inIrq = false ∧
        s.bus.countdown = none ∧ s.bus.lineAnswers = b :: [] ∧ s.bus.delays = 0 :: []) ∧
    (handling.ctl.inIrq = true ∧ handling.ctl.irq.todo = []) ∧
    (let s := setTodo [.irqLoop] handling;
      s.ctl.irq.todo ≠ []) := by decide

/-- A split: page 1 is not selected, the request comes at the second boundary. -/
theorem witness_Interrupts_split :
    let s := answering [0x22] (asserting [false, true] [0] listening);
    s.nic.bound = true ∧ Open s ∧ s.nic.page ≠ some .p1 ∧ s.bus.answers = 0x22 :: [] ∧
      s.bus.lineAnswers = false :: true :: [] ∧ s.bus.delays = 0 :: [] ∧
      (∃ t, exec .neCurrRd s = .next t ∧ s.ctl.inIrq = false ∧ t.ctl.inIrq = true) ∧
      bound.ctl.inIrq = false ∧ Quiet bound ∧ bound.cfg = s.cfg :=
  ⟨rfl, ⟨rfl, rfl, rfl, rfl, rfl⟩, by decide, rfl, rfl, rfl, ⟨_, rfl, rfl, rfl⟩, rfl, rfl, rfl⟩

/-- A run starts after the third part of a record: the mask of a DMA record, the first field of the eighth range. -/
theorem witness_Interrupts_record :
    let s := asserting [false, false, true] [0]
      (withLd (fun l => { l with io := List.replicate 7 IoRange.empty }) { pnp with fl := ⟨true, false, true, false⟩ });
    Open s ∧ s.iso.keySent = true ∧ s.wr.curld = true ∧ s.dec.card = some 0 ∧ s.dec.curld = .index (0 : Fin 4) ∧
      LdThere s 0 (0 : Fin 4) ∧ s.bus.lineAnswers = false :: false :: true :: [] ∧ s.bus.delays = 0 :: [] ∧
      (s.ld 0 0).dma = none ∧ (s.ld 0 0).io.length < 8 ∧
      (pnp.ctl.inIrq = false ∧ Quiet pnp ∧ pnp.cfg = s.cfg ∧ pnp.dec.card = some 0) ∧
      (let u := { pnp with fresh := some (.io { IoRange.empty with info := 0x01 }) };
        u.ctl.inIrq = false ∧ Quiet u ∧ u.cfg = s.cfg ∧ u.dec.card = some 0 ∧ (u.ld 0 0).io.length < 8 ∧
          after State.fresh (.recIoport [0x01]) s = some u.fresh) :=
  ⟨⟨rfl, rfl, rfl, rfl, rfl⟩, rfl, rfl, rfl, rfl, ⟨by decide, by decide⟩, rfl, rfl, rfl, by decide, ⟨rfl, rfl, rfl, rfl⟩,
    rfl, rfl, rfl, rfl, by decide, by decide⟩

/-- The request waits one boundary. -/
theorem witness_HaltWakes : halted.cfg.ok = true ∧ halted.fl.halted = true ∧ halted.ctl.inIrq = false ∧
    halted.fl.handlerSet = true ∧ halted.fl.lineMasked = false ∧ halted.fl.ifl = true ∧ halted.bus.countdown = none ∧
    halted.bus.lineAnswers = List.replicate (1 + 1) true ++ [] ∧ halted.bus.delays = 1 :: [] := by decide

theorem witness_MainSuspended :
    handling.ctl.inIrq = true ∧ isReceive .rxAdvance = true ∧ ∃ t, exec .rxAdvance handling = .next t :=
  ⟨rfl, rfl, _, rfl⟩

theorem witness_Preconditions :
    (needsKey .idRead = true ∧ State.reset.ctl.inIrq = false ∧ State.reset.iso.keySent = false) ∧
    (isReceive .rxAck = true ∧ pnp.ctl.inIrq = false) ∧ (isMainOnly .qWait = true ∧ handling.ctl.inIrq = true) ∧
    (pnp.nic.bound = false ∧ isAccessor (.nePage 0) = true ∧ isInitStep .neProm = true ∧ pnp.ctl.inIrq = false) ∧
    (let s := { handling with nic := { handling.nic with bound := false } };
      s.nic.bound = false ∧ isReceive .rxHdr = true ∧ s.ctl.inIrq = true) ∧
    (let s := { handling with phase := .neStarted, fl := { handling.fl with handlerSet := false } };
      isReceive .rxHdr = true ∧ s.ctl.inIrq = true ∧ s.nic.bound = true ∧ s.phase.handlerLive = false ∧
        s.fl.handlerSet = false) := by decide

theorem witness_NoInventedValues :
    (let s := { pnp with wr := Written.reset };
      PnpReady s ∧ s.wr.rdp = false ∧ s.wr.id = false ∧ s.wr.csum = false ∧ ([0x01] : List Byte).getD 0 0 ≠ 0#8 ∧
        ([] : List Byte).getD 0 0 = 0#8 ∧ (1 : Half) ≠ 0) ∧
    (let s := { pnp with wr := { Written.reset with rdp := true } };
      PnpReady s ∧ s.wr.rdp = true ∧ s.wr.csum = false ∧ s.dec.card = some 0 ∧ s.wr.curld = false) ∧
    (let s := storing { pnp with wr := { Written.reset with rdp := true, csum := true } };
      PnpReady s ∧ s.wr.rdp = true ∧ s.wr.csum = true ∧ s.dec.card = some 0 ∧ s.wr.curld = false ∧
        s.cfg.memRecords = .storeRaw) ∧
    (let s := { bound with wr := Written.reset };
      InitReady s ∧ s.wr.prom = false) ∧
    (let s := { handling with wr := Written.reset, rx := { handling.rx with fr := none } };
      RxReady s ∧ s.wr.nextPkt = false ∧ s.wr.hdr = false ∧ s.wr.etype = false ∧ s.wr.isrseen = false ∧
        s.wr.fr = false ∧ s.rx.fr = none) ∧
    (let s := { handling with wr := { handling.wr with hdr := false } };
      RxReady s ∧ s.wr.nextPkt = true ∧ s.wr.hdr = false) ∧
    (let s := { handling with wr := { handling.wr with fr := false }, rx := { handling.rx with fr := none } };
      RxReady s ∧ s.wr.nextPkt = true ∧ s.wr.hdr = true ∧ s.wr.fr = false ∧ s.rx.fr = none ∧
        roundup2 (s.rx.hdrTotal - 4) ≠ 0) ∧
    (let s := { handling with rx := { handling.rx with fr := some ⟨0, 1, 3, none⟩ }, wr := Written.reset };
      RxReady s ∧ s.rx.fr = some ⟨0, 1, 3, none⟩ ∧ (⟨0, 1, 3, none⟩ : FrameRec).eth = none ∧ s.wr.etype = false) :=
  ⟨⟨pnp_ready, rfl, rfl, rfl, by decide, rfl, by decide⟩, ⟨pnp_ready, rfl, rfl, rfl, rfl⟩,
    ⟨pnp_ready, rfl, rfl, rfl, rfl, rfl⟩, ⟨bound_init, rfl⟩, ⟨handling_rx, rfl, rfl, rfl, rfl, rfl, rfl⟩,
    ⟨handling_rx, rfl, rfl⟩, ⟨handling_rx, rfl, rfl, rfl, rfl, by decide⟩, handling_rx, rfl, rfl, rfl⟩

/-- `RX.ALLOC` with no header read, its record granted and refused; lengths of 0 that are fatal. -/
theorem witness_NoInventedValues_unread :
    (let s (a : Bool) := allocating [a] { handling with wr := Written.reset };
      ∀ a, RxReady (s a) ∧ (s a).wr.hdr = false ∧ (s a).bus.allocAnswers = a :: []) ∧
    (let s := { pnp with wr := Written.reset, cfg := { pnp.cfg with lenMismatchFatal := true } };
      PnpReady s ∧ s.wr.rdp = false ∧ s.wr.csum = false ∧ s.wr.curld = false ∧ s.cfg.lenMismatchFatal = true) ∧
    (let s := { pnp with wr := { Written.reset with rdp := true, csum := true } };
      PnpReady s ∧ s.dec.card = some 0 ∧ s.wr.curld = false ∧ s.wr.csum = true ∧ s.wr.rdp = true ∧
        s.cfg.lenMismatchFatal = false) :=
  ⟨fun _ => ⟨handling_rx, rfl, rfl⟩, ⟨pnp_ready, rfl, rfl, rfl, rfl⟩, pnp_ready, rfl, rfl, rfl, rfl, rfl⟩

/-- `FR = NONE` after it was written. -/
theorem witness_NoInventedValues_none :
    let s := { handling with rx := { handling.rx with fr := none } };
    RxReady s ∧ s.rx.fr = none ∧ s.wr.fr = true ∧ s.wr.nextPkt = true ∧ s.wr.hdr = true ∧ s.wr.etype = true ∧
      roundup2 (s.rx.hdrTotal - 4) ≠ 0 :=
  ⟨handling_rx, rfl, rfl, rfl, rfl, rfl, by decide⟩

/-- Indexes of no entry in use: one logical device and one range are in use, and one card. -/
theorem witness_NoInventedValues_unused :
    (PnpReady pnp ∧ ¬ LdThere pnp (0 : Byte).toNat (1 : Byte).toNat ∧ ¬ LdThere pnp (1 : Byte).toNat (0 : Byte).toNat ∧
      (pnp.ld 0 0).io.length ≤ (1 : Byte).toNat) ∧
    (let s := { pnp with dec := { pnp.dec with card := some 1 } };
      PnpReady s ∧ s.dec.card = some 1 ∧ s.wr.curld = true ∧ s.dev.length ≤ 1) ∧
    (let s := at_ (.index 1) pnp;
      PnpReady s ∧ s.dec.card = some 0 ∧ s.wr.curld = true ∧ s.dec.curld = .index (1 : Fin 4) ∧
        (s.device 0).crd.lds.length ≤ (1 : Fin 4)) :=
  ⟨⟨pnp_ready, fun h => absurd h.2 (by decide), fun h => absurd h.1 (by decide), by decide⟩,
    ⟨pnp_ready, rfl, rfl, by decide⟩, pnp_ready, rfl, rfl, rfl, by decide⟩

/-- An instruction for most of the elements that change. -/
theorem witness_OnlyNamedOps :
    (∃ t, exec (.qEnq aFrame) pnp = .next t ∧ t.q ≠ pnp.q) ∧
    (∃ t, exec .qDeq { pnp with q := [aFrame] } = .next t ∧ t.taken ≠ pnp.taken) ∧
    (∃ t, exec (.qGuard []) pnp = .next t ∧ t.fl.ifl ≠ pnp.fl.ifl) ∧
    (∃ t, exec .keySend State.reset = .next t ∧ t.iso.keySent ≠ State.reset.iso.keySent) ∧
    (∃ t, exec .neBind (activeAt (some 0x280)) = .next t ∧ t.nic.bound ≠ (activeAt (some 0x280)).nic.bound) ∧
    (let s := asserting [false] [] bound;
      ∃ t, exec .neHook s = .next t ∧ t.fl.handlerSet ≠ s.fl.handlerSet ∧ t.fl.lineMasked ≠ s.fl.lineMasked ∧
        t.ctl.inIrq = s.ctl.inIrq ∧ t.phase ≠ s.phase) ∧
    (let s := answering [0x22] (asserting [true] [0] listening);
      ∃ t, exec .neCurrRd s = .next t ∧ t.ctl.inIrq ≠ s.ctl.inIrq) ∧
    (∃ t, exec (.pnpSetrdp 0x207) pnp = .next t ∧ t.iso.rdp ≠ pnp.iso.rdp) ∧
    (let s := { pnp with fresh := some (.compat (fieldId [])) };
      ∃ t, exec (.recLogdev []) s = .next t ∧ t.fresh ≠ s.fresh) ∧
    (∃ t, exec .rxAdvance handling = .next t ∧ t.nic.nextPkt ≠ handling.nic.nextPkt) ∧
    (∃ t, exec .rxDrop handling = .next t ∧ t.heap ≠ handling.heap) :=
  ⟨⟨_, rfl, by decide⟩, ⟨_, rfl, by decide⟩, ⟨_, rfl, by decide⟩, ⟨_, rfl, by decide⟩, ⟨_, rfl, by decide⟩,
    ⟨_, rfl, by decide⟩, ⟨_, rfl, by decide⟩, ⟨_, rfl, by decide⟩, ⟨_, rfl, by decide⟩, ⟨_, rfl, by decide⟩,
    ⟨_, rfl, by decide⟩⟩

/-- A reference NIC with a remote read of two bytes at 0x4000 under way, its ports at 0x280. -/
def aNic : Nic :=
  ⟨[(0x4000, 0x01), (0x4001, 0x41)], 0x0A, 0x01, 0x01, 0x41, 0x04, 0x00, 0x40, 0x80, 0x40, 0x41, 0, 0,
    ⟨0, 0, 0, 0, 0, 0⟩, 0, 0x4000, 2, 0x4000, 2, true, .at 0x280⟩

/-- A reference card that waits for the key. -/
def aCard : Card := ⟨.waitForKey, 0, 0, 0, 0, false, false, [], 0, 0, []⟩

def withAgents (s : State) : State := { s with bus := { s.bus with agents := some ⟨[aCard], none, none, [aNic], []⟩ } }

theorem witness_CardMemoryReadOnly :
    QuietWire (withAgents bound) ∧ cardByte (withAgents bound) 0 0x4001 = 0x41 ∧
      ∃ t, exec .neFifoRd16 (withAgents bound) = .next t ∧ t.result = .half 0x4101 :=
  ⟨fun g h => by cases h; rfl, by decide, _, rfl, rfl⟩

/-- Also with a device and a logical device that are being filled. -/
theorem witness_StepKeepsTable : TableInv pnp ∧ (∃ t, step (pnp.withFetchWord 8 0x08) = .next t) ∧
    TableInv (fillDevice pnp) ∧ TableInv (setFresh (.ld lan) pnp) :=
  ⟨pnp_table, ⟨_, rfl⟩,
    ⟨pnp_table.1, pnp_table.2.1, fun _ h => (by cases h; exact ⟨rfl, by decide, fun _ h => (by cases h)⟩),
      fun _ h => (by cases h)⟩,
    ⟨pnp_table.1, pnp_table.2.1, fun _ h => (by cases h),
      fun _ h => (by cases h; exact ⟨by decide, by decide, by decide, rfl⟩)⟩⟩

/-- A binding that a handler run has split after `QH` was written. -/
def splitBind : State :=
  { bound with
    fl := { bound.fl with handlerSet := true }
    ctl := { bound.ctl with main := ⟨[.resume (.op .neBind) [.unit, .unit, .unit, .base (some 0x280)]], .unit⟩ } }

theorem witness_StepKeepsControl :
    (ContextInv (pnp.withFetchWord 8 0x08) ∧ RegisterInv (pnp.withFetchWord 8 0x08) ∧
      SplitInv (pnp.withFetchWord 8 0x08) ∧ ∃ t, step (pnp.withFetchWord 8 0x08) = .next t) ∧
    (ContextInv splitBind ∧ RegisterInv splitBind ∧ SplitInv splitBind ∧ ∃ t, step splitBind = .next t) := by
  refine ⟨⟨⟨fun h => (by cases h), fun h => (by cases h)⟩, ⟨fun _ => ?_, by decide, by decide, fun h => by cases h⟩,
      fun t got h => ?_, _, rfl⟩,
    ⟨fun h => (by cases h), fun h => (by cases h)⟩, ⟨fun _ => ?_, by decide, by decide, fun _ => rfl⟩,
      fun t got h => ?_, _, rfl⟩
  · decide
  · exact absurd h (by simp [State.withFetchWord, placeLine, push, State.setActive, State.active, pnp, State.reset,
      Control.reset, Ctx.reset, setHalted])
  · decide
  · cases List.mem_singleton.mp h
    exact ⟨rfl, fun p h => (by cases h), fun v h => (by cases h), fun _ _ => rfl⟩

theorem witness_StepKeepsMemory :
    HeapInv (withAgents bound) ∧ MemoryInv (withAgents bound) ∧
      ∃ t, step ((withAgents bound).withFetchWord 8 0x37) = .next t := by
  refine ⟨⟨by decide, by decide⟩, fun g h => ?_, _, rfl⟩
  cases h
  decide

set_option maxRecDepth 8000 in
theorem witness_ReferenceAgents :
    (aCard.cstate = .waitForKey ∧ aCard.keypos = 0) ∧
    (∀ k ∈ [0, 1, 31], let c := { aCard with keypos := k };
      c.cstate = .waitForKey ∧ (0x00 : Byte) ≠ keyByte c.keypos ∧ (k ≠ 0 → (0x6A : Byte) ≠ keyByte c.keypos)) ∧
    (aNic.remote = true ∧ aNic.rbc ≠ 0 ∧ aNic.crda + 2 ≠ aNic.pstop ++ 0#8) ∧
    (let n : Nic := { aNic with crda := 0x7FFE }; n.remote = true ∧ n.rbc ≠ 0 ∧ n.crda + 2 = n.pstop ++ 0#8) ∧
    (let rd (v : Byte) := (v >>> Numbers.default.crRd) &&& 7;
      rd 0x0A = 1 ∧ rd 0x22 ≠ 1 ∧ rd 0x22 &&& 4 ≠ 0 ∧ rd 0x02 ≠ 1 ∧ rd 0x02 &&& 4 = 0) ∧
    (let n : Nic := { aNic with remote := false }; n.remote = false ∨ n.rbc = 0) := by decide

/-- 20 R88: `RD` = `000` leaves a remote read outstanding, `CMD_NODMA` ends it. -/
theorem test_remote_read_outstanding :
    (aNic.command .default 0x02).reading = true ∧ (aNic.command .default 0x22).reading = false := by decide

end Sys2Proof.Tests
end

/-! PROOFS. The device table stays within its capacities (O56). First what each write of the table does to the
invariant; then, program by program, that every part of every operation keeps it (`KeepsTable`); then from the parts to
an instruction, a task and a step. -/

namespace Sys2Proof.Machine

/-! ## Lists: one entry changed, one entry counted -/

/-- What holds of every entry of a list and is kept by `f` holds of every entry after one of them is changed by `f`. -/
theorem forall_mem_modify {α : Type} {Q : α → Prop} {f : α → α} {xs : List α} (h : ∀ x ∈ xs, Q x)
    (hf : ∀ x, Q x → Q (f x)) (j : Nat) : ∀ x ∈ xs.modify j f, Q x := by
  intro x hx
  obtain ⟨n, hn⟩ := List.mem_iff_getElem?.1 hx
  rw [List.getElem?_modify] at hn
  obtain ⟨y, hy, rfl⟩ := Option.map_eq_some_iff.1 hn
  have hQ : Q y := h y (List.mem_of_getElem? hy)
  split
  · exact hf y hQ
  · exact hQ

theorem length_addEntry_le {α : Type} (cap : Nat) (xs : List α) (x : α) : (addEntry cap xs x).length ≤ cap :=
  List.length_take_le cap _

theorem mem_addEntry {α : Type} {cap : Nat} {xs : List α} {x y : α} (h : y ∈ addEntry cap xs x) :
    y ∈ xs ∨ y = x := by
  simpa using List.mem_of_mem_take h

/-- An entry of the longer table is an old one at its place, or the new one at the old count. -/
theorem getElem?_addEntry {α : Type} {cap : Nat} {xs : List α} {x y : α} {i : Nat}
    (h : (addEntry cap xs x)[i]? = some y) : xs[i]? = some y ∨ i = xs.length ∧ y = x := by
  have hi : (xs ++ [x])[i]? = some y := by
    unfold addEntry at h
    rw [List.getElem?_take] at h
    split at h
    · exact h
    · exact nomatch h
  rcases lt_trichotomy i xs.length with hlt | heq | hgt
  · exact .inl (by rwa [List.getElem?_append_left hlt] at hi)
  · subst heq
    exact .inr ⟨rfl, by simpa using hi.symm⟩
  · have hnone : (xs ++ [x])[i]? = none := List.getElem?_eq_none (by simp; omega)
    exact absurd (hnone.symm.trans hi) (by simp)

/-! ## The invariant, entry by entry -/

/-- A card's data within its capacities (10 R32): the part of `DeviceInv` that the decoder's writes touch. -/
def CrdInv (c : Crd) : Prop := c.lds.length ≤ 4 ∧ ∀ l ∈ c.lds, LdInv l

theorem deviceInv_iff (i : Nat) (d : Device) : DeviceInv i d ↔ d.csn.toNat = i + 1 ∧ CrdInv d.crd := Iff.rfl

/-- What the entry that is being filled must meet in a table of `n` devices (log 48). -/
def FreshInv (n : Nat) : Entry → Prop
  | .device d => DeviceInv n d
  | .ld l => LdInv l
  | _ => True

theorem tableInv_iff (s : State) :
    TableInv s ↔ s.dev.length ≤ 10 ∧ (∀ i d, s.dev[i]? = some d → DeviceInv i d) ∧
      ∀ e, s.fresh = some e → FreshInv s.dev.length e := by
  refine and_congr_right fun _ => and_congr_right fun _ => ⟨fun ⟨hd, hl⟩ e he => ?_, fun h => ?_⟩
  · cases e with
    | device d => exact hd d he
    | ld l => exact hl l he
    | _ => trivial
  · exact ⟨fun d hd => h _ hd, fun l hl => h _ hl⟩

/-- The invariant speaks of the table and of the entry being filled only. -/
theorem tableInv_congr {s t : State} (hd : t.dev = s.dev) (hf : t.fresh = s.fresh) (h : TableInv s) : TableInv t := by
  unfold TableInv
  rw [hd, hf]
  exact h

theorem ldInv_empty : LdInv LogicalDevice.empty := by simp [LdInv, LogicalDevice.empty]

/-- The card just isolated gets the next CSN and no logical device (40 R155). -/
theorem deviceInv_newDevice {s : State} (h : s.dev.length ≤ 10) : DeviceInv s.dev.length (newDevice s) := by
  have hcsn : (newDevice s).csn.toNat = s.dev.length + 1 := by
    simp only [newDevice, State.devcount, BitVec.toNat_ofNat]
    omega
  exact ⟨hcsn, by simp [newDevice, Crd.empty], by simp [newDevice, Crd.empty]⟩

/-- Every count of a logical device's list stops at its capacity (10 R33). -/
theorem ldInv_added {e : Entry} {f : LogicalDevice → LogicalDevice} (h : e.added = some f) (l : LogicalDevice)
    (hl : LdInv l) : LdInv (f l) := by
  obtain ⟨hcompat, hio, hmem, hdep⟩ := hl
  cases e with
  | compat c => cases h; exact ⟨length_addEntry_le _ _ _, hio, hmem, hdep⟩
  | mem m => cases h; exact ⟨hcompat, hio, length_addEntry_le _ _ _, hdep⟩
  | io d => cases h; exact ⟨hcompat, length_addEntry_le _ _ _, hmem, hdep⟩
  | _ => exact nomatch h

theorem crdInv_modifyLd {f : LogicalDevice → LogicalDevice} (hf : ∀ l, LdInv l → LdInv (f l)) (j : Nat) (c : Crd)
    (hc : CrdInv c) : CrdInv { c with lds := c.lds.modify j f } :=
  ⟨by simpa using hc.1, forall_mem_modify hc.2 hf j⟩

theorem crdInv_addLd {l : LogicalDevice} (hl : LdInv l) (c : Crd) (hc : CrdInv c) :
    CrdInv { c with lds := addEntry Config.ldCap c.lds l } := by
  refine ⟨length_addEntry_le _ _ _, fun x hx => ?_⟩
  rcases mem_addEntry hx with hx | rfl
  · exact hc.2 x hx
  · exact hl

/-! ## What each write of the table does to it -/

theorem tableInv_modCrd {f : Crd → Crd} (hf : ∀ c, CrdInv c → CrdInv (f c)) (i : Nat) {s : State} (h : TableInv s) :
    TableInv (modCrd i f s) := by
  obtain ⟨hlen, hdev, hfresh⟩ := (tableInv_iff s).1 h
  have hlen' : (modCrd i f s).dev.length = s.dev.length := by simp
  refine (tableInv_iff _).2 ⟨hlen' ▸ hlen, fun n d hn => ?_, fun e he => hlen' ▸ hfresh e he⟩
  rw [modCrd_dev, List.getElem?_modify] at hn
  obtain ⟨d, hd, rfl⟩ := Option.map_eq_some_iff.1 hn
  obtain ⟨hcsn, hcrd⟩ := (deviceInv_iff n d).1 (hdev n d hd)
  split
  · exact (deviceInv_iff n _).2 ⟨hcsn, hf _ hcrd⟩
  · exact ⟨hcsn, hcrd⟩

theorem tableInv_modLd {f : LogicalDevice → LogicalDevice} (hf : ∀ l, LdInv l → LdInv (f l)) (i j : Nat) {s : State}
    (h : TableInv s) : TableInv (modLd i j f s) :=
  tableInv_modCrd (crdInv_modifyLd hf j) i h

theorem tableInv_modIo (i j k : Nat) (f : IoRange → IoRange) {s : State} (h : TableInv s) :
    TableInv (modIo i j k f s) := by
  refine tableInv_modLd (fun l hl => ?_) i j h
  obtain ⟨hcompat, hio, hmem, hdep⟩ := hl
  exact ⟨hcompat, by simpa using hio, hmem, hdep⟩

theorem tableInv_setFresh {e : Entry} {s : State} (he : FreshInv s.dev.length e) (h : TableInv s) :
    TableInv (setFresh e s) := by
  obtain ⟨hlen, hdev, -⟩ := (tableInv_iff s).1 h
  exact (tableInv_iff _).2 ⟨hlen, hdev, fun e' h' => Option.some.inj h' ▸ he⟩

/-- Nothing is being filled any more. -/
theorem tableInv_noFresh {s : State} (h : TableInv s) : TableInv { s with fresh := none } :=
  ⟨h.1, h.2.1, nofun, nofun⟩

theorem tableInv_modFresh {f : Entry → Entry} (hf : ∀ n e, FreshInv n e → FreshInv n (f e)) {s : State}
    (h : TableInv s) : TableInv (modFresh f s) := by
  obtain ⟨hlen, hdev, hfresh⟩ := (tableInv_iff s).1 h
  refine (tableInv_iff _).2 ⟨hlen, hdev, fun e' he' => ?_⟩
  obtain ⟨e, he, rfl⟩ := Option.map_eq_some_iff.1 he'
  exact hf _ e (hfresh e he)

theorem freshInv_onLd {f : LogicalDevice → LogicalDevice} (hf : ∀ l, LdInv l → LdInv (f l)) (n : Nat) (e : Entry)
    (he : FreshInv n e) : FreshInv n (e.onLd f) := by
  cases e with
  | ld l => exact hf l he
  | _ => exact he

theorem freshInv_onIo (f : IoRange → IoRange) (n : Nat) (e : Entry) (he : FreshInv n e) : FreshInv n (e.onIo f) := by
  cases e <;> exact he

theorem tableInv_fillDevice {s : State} (h : TableInv s) : TableInv (fillDevice s) :=
  tableInv_setFresh (deviceInv_newDevice h.1) h

theorem tableInv_countDevice {s : State} (h : TableInv s) : TableInv (countDevice s) := by
  rcases countDevice_cases s with ⟨d, hd, e⟩ | ⟨-, e⟩
  · obtain ⟨-, hdev, hfresh⟩ := (tableInv_iff s).1 h
    rw [e]
    refine ⟨length_addEntry_le _ _ _, fun i x hx => ?_, nofun, nofun⟩
    rcases getElem?_addEntry hx with hx | ⟨rfl, rfl⟩
    · exact hdev i x hx
    · exact hfresh _ hd
  · rw [e]
    exact h

theorem tableInv_countLd (i : Nat) {s : State} (h : TableInv s) : TableInv (countLd i s) := by
  rcases countLd_cases s i with ⟨l, hl, e⟩ | ⟨-, e⟩
  · rw [e]
    exact tableInv_noFresh (tableInv_modCrd (crdInv_addLd (h.2.2.2 l hl)) i h)
  · rw [e]
    exact h

theorem tableInv_countIn (i j : Nat) {s : State} (h : TableInv s) : TableInv (countIn i j s) := by
  rcases countIn_cases s i j with ⟨_, f, -, hf, e⟩ | e
  · rw [e]
    exact tableInv_noFresh (tableInv_modLd (ldInv_added hf) i j h)
  · rw [e]
    exact h

theorem tableInv_raise (f : Failure) {s : State} (h : TableInv s) : TableInv (raise f s) :=
  tableInv_congr (by simp) (by simp) h

/-! ## Programs that keep a predicate, part by part -/

section
variable {P : State → Prop}

theorem keeps_done : Keeps P .done := trivial

theorem keeps_upd {f : State → State} {k : Prog} (hf : ∀ s, P s → P (f s)) (hk : Keeps P k) : Keeps P (.upd f k) :=
  ⟨hf, fun _ => hk⟩

theorem keeps_last {f : State → State} (hf : ∀ s, P s → P (f s)) : Keeps P (.last f) := keeps_upd hf keeps_done

theorem keeps_act {f : State → Val × State} {k : Val → Prog} (hf : ∀ s, P s → P (f s).2) (hk : ∀ v, Keeps P (k v)) :
    Keeps P (.act f k) := ⟨hf, hk⟩

/-- A part that reads a register changes nothing. -/
theorem keeps_read {f : State → Val} {k : Val → Prog} (hk : ∀ v, Keeps P (k v)) :
    Keeps P (.act (fun s => (f s, s)) k) := ⟨fun _ h => h, hk⟩

theorem keeps_test {f : State → Bool} {yes no : Prog} (hy : Keeps P yes) (hn : Keeps P no) :
    Keeps P (.test f yes no) :=
  keeps_read fun v => by
    cases v.toBool with
    | true => exact hy
    | false => exact hn

theorem keeps_ld {i j : State → Nat} {k : LogicalDevice → Prog} (hf : ∀ s, P s → P (readLd (i s) (j s) s).2)
    (hk : ∀ l, Keeps P (k l)) : Keeps P (.ld i j k) :=
  keeps_act hf fun v => by cases v with | ld l => exact hk l | _ => exact keeps_done

theorem keeps_io {i j n : Nat} {k : IoRange → Prog} (hf : ∀ s, P s → P (readIo i j n s).2)
    (hk : ∀ d, Keeps P (k d)) : Keeps P (.io i j n k) :=
  keeps_act hf fun v => by cases v with | io d => exact hk d | _ => exact keeps_done

theorem keeps_frameRec {f : State → FrameRec × State} {k : FrameRec → Prog} (hf : ∀ s, P s → P (f s).2)
    (hk : ∀ r, Keeps P (k r)) : Keeps P (.frameRec f k) :=
  keeps_act hf fun v => by cases v with | frameRec r => exact hk r | _ => exact keeps_done

/-- The rest of a program keeps what the whole keeps. -/
theorem keeps_after {p : Prog} (h : Keeps P p) (vs : List Val) : Keeps P (p.after vs) := by
  induction vs generalizing p with
  | nil => cases p <;> exact h
  | cons v vs ih =>
    cases p with
    | done => exact h
    | act f k => exact ih (h.2 v)

end

/-! ## Parts that all programs share

`fun _ h => h` is the proof for a part that writes neither the table nor the entry being filled: the invariant does not
see the change. -/

/-- Every part keeps the device table within its capacities. -/
abbrev KeepsTable (p : Prog) : Prop := Keeps TableInv p

section
variable {k : Prog}

theorem keepsTable_ld {i j : State → Nat} {k : LogicalDevice → Prog} (hk : ∀ l, KeepsTable (k l)) :
    KeepsTable (.ld i j k) := keeps_ld (fun _ => tableInv_congr (by simp) (by simp)) hk

theorem keepsTable_answer (r : Result) : KeepsTable (.answer r) := keeps_last fun _ h => h

theorem keepsTable_fail (f : Failure) : KeepsTable (.fail f) := keeps_last fun _ => tableInv_raise f

theorem keepsTable_raise (f : Failure) (hk : KeepsTable k) : KeepsTable (.upd (raise f) k) :=
  keeps_upd (fun _ => tableInv_raise f) hk

theorem keepsTable_log (f : Failure) (hk : KeepsTable k) : KeepsTable (.log f k) := keeps_upd (fun _ h => h) hk

theorem keepsTable_push (ts : List Task) : KeepsTable (.last (push ts)) := keeps_last fun _ h => h

theorem keepsTable_setPhase (p : Phase) (hk : KeepsTable k) : KeepsTable (.upd (setPhase p) k) :=
  keeps_upd (fun _ h => h) hk

theorem keepsTable_lastPhase (p : Phase) : KeepsTable (.last (setPhase p)) := keepsTable_setPhase p keeps_done

theorem keepsTable_wr8 {port : Half} {v : Byte} (hk : KeepsTable k) : KeepsTable (.wr8 port v k) :=
  keeps_upd (fun _ h => h) hk

theorem keepsTable_rd8 {port : Half} {k : Byte → Prog} (hk : ∀ v, KeepsTable (k v)) : KeepsTable (.rd8 port k) :=
  keeps_act (fun _ h => h) fun _ => hk _

theorem keepsTable_rdPort {k : Byte → Prog} (hk : ∀ v, KeepsTable (k v)) : KeepsTable (.rdPort k) :=
  keeps_act (fun _ h => h) fun _ => hk _

theorem keepsTable_cfgWr {reg v : Byte} (hk : KeepsTable k) : KeepsTable (.cfgWr reg v k) :=
  keepsTable_wr8 (keepsTable_wr8 hk)

theorem keepsTable_cfgRd {reg : Byte} {k : Byte → Prog} (hk : ∀ v, KeepsTable (k v)) : KeepsTable (.cfgRd reg k) :=
  keepsTable_wr8 (keepsTable_rdPort hk)

theorem keepsTable_neWr {off : Half} {v : Byte} (hk : KeepsTable k) : KeepsTable (.neWr off v k) :=
  keeps_upd (fun _ h => h) hk

theorem keepsTable_neRd {off : Half} {k : Byte → Prog} (hk : ∀ v, KeepsTable (k v)) : KeepsTable (.neRd off k) :=
  keeps_act (fun _ h => h) fun _ => hk _

theorem keepsTable_neRd16 {off : Half} {k : Half → Prog} (hk : ∀ v, KeepsTable (k v)) :
    KeepsTable (.neRd16 off k) := keeps_act (fun _ h => h) fun _ => hk _

theorem keepsTable_guardIf {body : Prog → Prog} (hb : ∀ k', KeepsTable k' → KeepsTable (body k'))
    (hk : KeepsTable k) : KeepsTable (.guardIf body k) :=
  keeps_act (fun _ h => h) fun _ => hb _ (keeps_upd (fun _ h => h) hk)

end

/-! ## Isolation -/

section
variable {k : Prog}

theorem keepsTable_keyPreamble (n : Nat) (hk : KeepsTable k) : KeepsTable (keyPreamble n k) := by
  induction n with
  | zero => exact hk
  | succ n ih => exact keepsTable_wr8 ih

theorem keepsTable_keyBytes (n : Nat) (hk : KeepsTable k) : KeepsTable (keyBytes n k) := by
  induction n with
  | zero => exact hk
  | succ n ih => exact keeps_upd (fun _ h => h) (keeps_upd (fun _ h => h) ih)

theorem keepsTable_keySend (c : Params) : KeepsTable (keySend c) :=
  keepsTable_keyPreamble _ <| keeps_upd (fun _ h => h) <| keepsTable_keyBytes _ <| keeps_last fun _ h => h

theorem keepsTable_idSample {k : Half → Prog} (hk : ∀ v, KeepsTable (k v)) : KeepsTable (idSample k) :=
  keepsTable_rdPort fun _ => keepsTable_rdPort fun _ => hk _

theorem keepsTable_sampleResult (v : Half) : KeepsTable (sampleResult v) := by
  unfold sampleResult
  split
  · exact keepsTable_answer _
  · exact keepsTable_fail _

theorem keepsTable_idStore (n : Nat) (b : Bool) (hk : KeepsTable k) : KeepsTable (idStore n b k) := by
  have hcount : KeepsTable (.upd (setBitcnt (BitVec.ofNat 7 (n + 1))) k) := keeps_upd (fun _ h => h) hk
  refine keeps_upd (fun _ h => h) ?_
  split
  · exact keeps_upd (fun _ h => h) hcount
  · exact hcount

theorem keepsTable_idBits (n : Nat) {k : Option Failure → Prog} (hk : ∀ r, KeepsTable (k r)) :
    KeepsTable (idBits n k) := by
  induction n with
  | zero => exact hk _
  | succ n ih =>
    refine keepsTable_idSample fun v => ?_
    split
    · exact hk _
    · exact keepsTable_idStore _ _ ih

theorem keepsTable_idRead {k : Option Failure → Prog} (hk : ∀ r, KeepsTable (k r)) : KeepsTable (idRead k) :=
  keeps_upd (fun _ h => h) <| keeps_upd (fun _ h => h) <| keeps_upd (fun _ h => h) <| keepsTable_idBits _ fun r => by
    cases r with
    | some f => exact hk _
    | none => exact keeps_test (hk _) (hk _)

theorem keepsTable_idReadOp (c : Params) : KeepsTable (idReadOp c) :=
  keepsTable_idRead fun r => by
    cases r with
    | some f => exact keepsTable_fail f
    | none => exact keepsTable_answer _

/-- The card just isolated is filled in, then counted (40 R155). -/
theorem keepsTable_isoStore (c : Params) : KeepsTable (isoStore c) :=
  keeps_read fun _ => keepsTable_cfgWr <| keeps_upd (fun _ => tableInv_fillDevice) <|
    keeps_upd (fun _ => tableInv_countDevice) <| keeps_upd (fun _ h => h) <| keepsTable_push _

theorem keepsTable_isoRound (first : Bool) (c : Params) : KeepsTable (isoRound first c) := by
  have hround : KeepsTable (isoSelect c <| idRead fun r => match r with
      | some _ => .answer .noneFound
      | none => isoStore c) :=
    keepsTable_wr8 <| keepsTable_idRead fun r => by
      cases r with
      | some f => exact keepsTable_answer _
      | none => exact keepsTable_isoStore c
  cases first with
  | true => exact hround
  | false => exact keepsTable_cfgWr hround

theorem keepsTable_setRdp (c : Params) (p : Half) (hk : KeepsTable k) : KeepsTable (setRdp c p k) :=
  keepsTable_cfgWr (keeps_upd (fun _ h => h) hk)

theorem keepsTable_enumAt (k : Nat) (c : Params) : KeepsTable (enumAt k c) := by
  unfold enumAt
  split
  · exact keepsTable_setPhase _ <| keepsTable_cfgWr <| keepsTable_setRdp c _ (keepsTable_push _)
  · exact keepsTable_setPhase _ (keepsTable_answer _)

theorem keepsTable_enumRounds (k : Nat) (first found : Bool) (c : Params) :
    KeepsTable (enumRounds k first found c) :=
  keeps_test (keepsTable_push _) (keepsTable_raise _ (keepsTable_lastPhase _))

theorem keepsTable_enumAfter (k : Nat) (found : Bool) (c : Params) : KeepsTable (enumAfter k found c) := by
  refine keeps_test (keepsTable_push _) ?_
  split
  · exact keepsTable_setPhase _ (keepsTable_answer _)
  · exact keepsTable_push _

end

/-! ## The resource decoder -/

section
variable {k : Prog}

theorem keepsTable_rdPoll (c : Params) {ready : Byte → Prog} {wait : Prog} (hr : ∀ b, KeepsTable (ready b))
    (hw : KeepsTable wait) : KeepsTable (rdPoll c ready wait) := by
  refine keepsTable_cfgRd fun st => ?_
  split
  · exact keepsTable_cfgRd fun b => keeps_upd (fun _ h => h) (hr b)
  · exact hw

theorem keepsTable_headerHigh (h l0 : Byte) (c : Params) : KeepsTable (headerHigh h l0 c) :=
  keepsTable_rdPoll c (fun _ => keepsTable_answer _) (keepsTable_push _)

theorem keepsTable_headerLow (h : Byte) (c : Params) : KeepsTable (headerLow h c) :=
  keepsTable_rdPoll c (fun _ => keepsTable_headerHigh _ _ _) (keepsTable_push _)

theorem keepsTable_rdHeader (c : Params) : KeepsTable (rdHeader c) := by
  refine keepsTable_rdPoll c (fun h => ?_) (keepsTable_push _)
  unfold headerForm
  split
  · exact keepsTable_headerLow _ _
  · exact keepsTable_answer _

theorem keepsTable_headerRest (got : List Byte) (c : Params) : KeepsTable (headerRest got c) := by
  unfold headerRest
  split
  · exact keepsTable_rdHeader c
  · exact keepsTable_headerLow _ _
  · exact keepsTable_headerHigh _ _ _

theorem keepsTable_updCrd {f : Crd → Crd} (hf : ∀ c, CrdInv c → CrdInv (f c)) (hk : KeepsTable k) :
    KeepsTable (updCrd f k) := keeps_upd (fun _ => tableInv_modCrd hf _) hk

theorem keepsTable_updLd (j : Nat) {f : LogicalDevice → LogicalDevice} (hf : ∀ l, LdInv l → LdInv (f l))
    (hk : KeepsTable k) : KeepsTable (updLd j f k) := keeps_upd (fun _ => tableInv_modLd hf _ j) hk

theorem keepsTable_updIrq (j : Nat) (f : State → IrqRes → IrqRes) (hk : KeepsTable k) : KeepsTable (updIrq j f k) :=
  keeps_upd (fun s => tableInv_modLd (f := fun l => { l with irq := l.irq.map (f s) }) (fun _ h => h) _ j) hk

theorem keepsTable_fill {e : Entry} (he : ∀ n, FreshInv n e) (hk : KeepsTable k) : KeepsTable (fill e k) :=
  keeps_upd (fun _ => tableInv_setFresh (he _)) hk

theorem keepsTable_fillLd {f : LogicalDevice → LogicalDevice} (hf : ∀ l, LdInv l → LdInv (f l)) (hk : KeepsTable k) :
    KeepsTable (fillLd f k) := keeps_upd (fun _ => tableInv_modFresh (freshInv_onLd hf)) hk

theorem keepsTable_fillIo (f : State → IoRange → IoRange) (hk : KeepsTable k) :
    KeepsTable (.upd (fun s => modFresh (Entry.onIo (f s)) s) k) :=
  keeps_upd (fun _ => tableInv_modFresh (freshInv_onIo _)) hk

theorem keepsTable_countNew (j : Nat) (hk : KeepsTable k) : KeepsTable (countNew j k) :=
  keeps_upd (fun _ => tableInv_countIn _ j) hk

/-- The record of a logical device fills in its id and flags; its lists are empty when it is counted (41 R174). -/
theorem keepsTable_newLd (body : List Byte) (hk : KeepsTable k) : KeepsTable (newLd body k) :=
  keepsTable_fill (fun _ => ldInv_empty) <| keepsTable_fillLd (fun _ h => h) <| keepsTable_fillLd (fun _ h => h) <|
    keepsTable_fillLd (fun _ h => h) <| keeps_upd (fun _ => tableInv_countLd _) hk

theorem keepsTable_newIo (body : List Byte) (j : Nat) (hk : KeepsTable k) : KeepsTable (newIo body j k) :=
  keepsTable_fill (fun _ => trivial) <| keepsTable_fillIo _ <| keepsTable_fillIo _ <| keepsTable_fillIo _ <|
    keepsTable_fillIo _ <| keepsTable_fillIo _ <| keepsTable_fillIo _ <| keepsTable_countNew j hk

theorem keepsTable_fillAndCount (e : Entry) (he : ∀ n, FreshInv n e) (j : Nat) :
    KeepsTable (fill e (countNew j .done)) := keepsTable_fill he (keepsTable_countNew j keeps_done)

/-- A record that attaches to a logical device: dropped where there is none or `full` says that it holds no more, else
`store` writes it (41 R185). -/
theorem keepsTable_attach {full : LogicalDevice → Prop} [DecidablePred full] (f : Failure)
    {store : Fin 4 → LogicalDevice → Prog} (h : ∀ j l, KeepsTable (store j l)) :
    KeepsTable (attach fun j => cardLd j fun l => if full l then .log f .done else store j l) :=
  keeps_read fun v => by
    dsimp only
    split
    · exact keepsTable_log _ keeps_done
    · exact keeps_done
    · refine keepsTable_ld fun l => ?_
      split
      · exact keepsTable_log _ keeps_done
      · exact h _ l

theorem keepsTable_recVersion (body : List Byte) (c : Params) : KeepsTable (recVersion body c) :=
  keepsTable_updCrd (fun _ h => h) (keepsTable_updCrd (fun _ h => h) keeps_done)

theorem keepsTable_recLogdev (body : List Byte) (c : Params) : KeepsTable (recLogdev body c) := by
  refine keeps_act (fun _ => tableInv_congr (by simp [cardLdcount]) (by simp [cardLdcount])) fun n => ?_
  split
  · exact keepsTable_log _ (keeps_last fun _ h => h)
  · exact keepsTable_newLd _ <| keeps_upd (fun _ h => h) <| keeps_upd (fun _ h => h) <| keeps_last fun _ h => h

theorem keepsTable_recCompat (body : List Byte) (c : Params) : KeepsTable (recCompat body c) :=
  keepsTable_attach _ fun j _ => keepsTable_fillAndCount (.compat (fieldId body)) (fun _ => trivial) j

theorem keepsTable_recIrq (body : List Byte) (c : Params) : KeepsTable (recIrq body c) :=
  keepsTable_attach _ fun j _ => keepsTable_updLd j (fun _ h => h) <| keepsTable_updIrq j _ <|
    keepsTable_updIrq j _ <| keepsTable_updIrq j _ <| keeps_last fun _ h => h

theorem keepsTable_recDma (body : List Byte) (c : Params) : KeepsTable (recDma body c) :=
  keepsTable_attach _ fun j _ => keepsTable_updLd j (fun _ h => h) (keepsTable_updLd j (fun _ h => h) keeps_done)

theorem keepsTable_recIoport (body : List Byte) (c : Params) : KeepsTable (recIoport body c) :=
  keepsTable_attach _ fun j _ => keepsTable_newIo body j (keeps_last fun _ h => h)

theorem keepsTable_recAnsi (body : List Byte) (c : Params) : KeepsTable (recAnsi body c) :=
  keeps_read fun v => by
    dsimp only
    split
    · exact keepsTable_updCrd (fun _ h => h) keeps_done
    · exact keeps_done
    · exact keepsTable_updLd _ (fun _ h => h) keeps_done

theorem keepsTable_recMemory (kind : MemKind) (tag : Byte) (body : List Byte) (c : Params) :
    KeepsTable (recMemory kind tag body c) := by
  unfold recMemory
  split
  · exact keepsTable_fail _
  · exact keepsTable_attach _ fun j _ => keepsTable_fillAndCount (.mem ⟨kind, body⟩) (fun _ => trivial) j

theorem keepsTable_runRecord (r : RecKind) (body : List Byte) (c : Params) : KeepsTable (runRecord r body c) := by
  cases r with
  | version => exact keepsTable_recVersion body c
  | logdev => exact keepsTable_recLogdev body c
  | compat => exact keepsTable_recCompat body c
  | irq => exact keepsTable_recIrq body c
  | dma => exact keepsTable_recDma body c
  | ioport => exact keepsTable_recIoport body c
  | ansi => exact keepsTable_recAnsi body c
  | endTag => exact keeps_last fun _ h => h
  | mem => exact keepsTable_recMemory _ _ _ _
  | mem32 => exact keepsTable_recMemory _ _ _ _

theorem keepsTable_recordDone (r : RecKind) (body : List Byte) (c : Params) : KeepsTable (recordDone r body c) := by
  unfold recordDone
  split
  · exact keepsTable_runRecord r body c
  · refine keepsTable_log _ ?_
    split
    · exact keepsTable_fail _
    · exact keepsTable_runRecord r body c

theorem keepsTable_readBody (u : BodyUse) (c : Params) (n : Nat) (got : List Byte) :
    KeepsTable (readBody u c n got) := by
  induction n generalizing got with
  | zero =>
    refine keeps_upd (fun _ h => h) ?_
    cases u with
    | plain => exact keeps_done
    | record r => exact keepsTable_recordDone r _ c
  | succ n ih => exact keepsTable_rdPoll c (fun _ => ih _) (keepsTable_push _)

theorem keepsTable_memoryRecord (r : RecKind) (len : Half) (c : Params) : KeepsTable (memoryRecord r len c) := by
  unfold memoryRecord
  split
  · exact keepsTable_readBody _ _ _ _
  · exact keepsTable_fail _

end

/-! ## The allocator -/

section
variable {k : Prog}

theorem keepsTable_cfgSelect (c : Params) (i j : Nat) (hk : KeepsTable k) : KeepsTable (cfgSelect c i j k) :=
  keeps_act (fun _ => tableInv_congr (by simp [readCsn]) (by simp [readCsn])) fun _ =>
    keepsTable_cfgWr (keepsTable_cfgWr hk)

theorem keepsTable_probeSweep {k : Bool → Prog} (hk : ∀ b, KeepsTable (k b)) (ps : List Half) :
    KeepsTable (probeSweep k ps) := by
  induction ps with
  | nil => exact hk _
  | cons p ps ih =>
    refine keepsTable_rd8 fun v => ?_
    split
    · exact ih
    · exact hk _

theorem keepsTable_probePasses (ports : List Half) {k : Bool → Prog} (hk : ∀ b, KeepsTable (k b)) (n : Nat) :
    KeepsTable (probePasses ports k n) := by
  induction n with
  | zero => exact hk _
  | succ n ih =>
    refine keepsTable_probeSweep (fun clean => ?_) _
    split
    · exact ih
    · exact hk _

theorem keepsTable_cfgProbe (c : Params) (base : Half) (len : Nat) {k : Bool → Prog} (hk : ∀ b, KeepsTable (k b)) :
    KeepsTable (cfgProbe c base len k) := keepsTable_probePasses _ hk _

theorem keepsTable_ioSearch (c : Params) (d : IoRange) {k : Option Half → Prog} (hk : ∀ r, KeepsTable (k r))
    (n base : Nat) : KeepsTable (ioSearch c d k n base) := by
  induction n generalizing base with
  | zero => exact hk _
  | succ n ih =>
    unfold ioSearch
    split
    · refine keepsTable_cfgProbe _ _ _ fun clean => ?_
      split
      · exact keepsTable_cfgWr (keepsTable_cfgWr (hk _))
      · exact ih _
    · exact hk _

theorem keepsTable_cfgIo (c : Params) (i j n : Nat) {next : Bool → Prog} (hk : ∀ b, KeepsTable (next b)) :
    KeepsTable (cfgIo c i j n next) := by
  refine keeps_io (fun _ => tableInv_congr (by simp) (by simp)) fun d => keepsTable_ioSearch c d (fun r => ?_) _ _
  cases r with
  | none => exact keepsTable_raise _ (hk _)
  | some b => exact keeps_upd (fun _ => tableInv_modIo i j n _) (hk _)

theorem keepsTable_cfgIoOp (i j n : Byte) (c : Params) : KeepsTable (cfgIoOp i j n c) := by
  unfold cfgIoOp
  exact keepsTable_cfgIo c _ _ _ fun _ => keeps_done

theorem tableInv_assignIrq (i j : Nat) (r : IrqRes) {s : State} (h : TableInv s) : TableInv (assignIrq i j r s) :=
  tableInv_modLd (f := fun l => { l with irq := some { r with assigned := some 5 } }) (fun _ hl => hl) i j h

theorem keepsTable_cfgIrq (i j : Nat) {next : Bool → Prog} (hk : ∀ b, KeepsTable (next b)) :
    KeepsTable (cfgIrq i j next) := by
  refine keepsTable_ld fun l => ?_
  split
  · exact keepsTable_raise _ (hk _)
  · exact keepsTable_cfgWr <| keepsTable_cfgWr <| keeps_upd (fun _ => tableInv_assignIrq i j _) (hk _)

theorem tableInv_activate (i j : Nat) {s : State} (h : TableInv s) :
    TableInv (modLd i j (fun l => { l with active := true }) s) :=
  tableInv_modLd (f := fun l => { l with active := true }) (fun _ hl => hl) i j h

theorem keepsTable_cfgActivate (c : Params) (i j : Nat) (hk : KeepsTable k) : KeepsTable (cfgActivate c i j k) :=
  keepsTable_cfgWr <| keepsTable_cfgWr <| keepsTable_cfgWr <| keeps_upd (fun _ => tableInv_activate i j) hk

theorem keepsTable_cfgRanges (c : Params) (i j : Nat) {next : Bool → Prog} (hk : ∀ b, KeepsTable (next b))
    (ns : List Nat) : KeepsTable (cfgRanges c i j next ns) := by
  induction ns with
  | nil => exact hk _
  | cons n ns ih =>
    refine keepsTable_cfgIo c i j n fun ok => ?_
    split
    · exact ih
    · exact hk _

theorem keepsTable_cfgDevice (c : Params) (i j : Nat) (hk : KeepsTable k) : KeepsTable (cfgDevice c i j k) := by
  have hresult : ∀ ok, KeepsTable (deviceResult ok k) := fun _ => keeps_upd (fun _ h => h) hk
  refine keepsTable_ld fun l => keepsTable_cfgSelect c i j <| keepsTable_cfgRanges c i j (fun ok => ?_) _
  split
  · refine keepsTable_cfgIrq i j fun ok => ?_
    split
    · exact keepsTable_cfgActivate c i j (hresult true)
    · exact hresult false
  · exact hresult false

theorem keepsTable_cfgLds (c : Params) (i : Nat) (hk : KeepsTable k) (js : List Nat) :
    KeepsTable (cfgLds c i k js) := by
  induction js with
  | nil => exact hk
  | cons j js ih =>
    refine keepsTable_ld fun l => ?_
    split
    · exact keepsTable_cfgDevice c i j ih
    · exact ih

theorem keepsTable_cfgCards (c : Params) (is : List Nat) : KeepsTable (cfgCards c is) := by
  induction is with
  | nil => exact keeps_done
  | cons i is ih => exact keeps_test (keeps_read fun _ => keepsTable_cfgLds c i ih _) ih

theorem keepsTable_cfgAll (c : Params) : KeepsTable (cfgAll c) := keeps_read fun _ => keepsTable_cfgCards c _

end

/-! ## The NIC: no part touches the table -/

section
variable {k : Prog}

theorem keepsTable_selectPage (c : Params) (p : RegPage) (hk : KeepsTable k) : KeepsTable (selectPage c p k) :=
  keeps_read fun q => by
    dsimp only
    split
    · exact hk
    · exact keepsTable_neRd fun _ => keepsTable_neWr (keeps_upd (fun _ h => h) hk)

theorem keepsTable_neCommand (c : Params) (cmd : Byte) (hk : KeepsTable k) : KeepsTable (neCommand c cmd k) :=
  keeps_read fun _ => keepsTable_neWr hk

theorem keepsTable_neReadOp (off : Half) : KeepsTable (neReadOp off) := keepsTable_neRd fun _ => keepsTable_answer _

theorem keepsTable_bnryWrite (c : Params) (v : Byte) (hk : KeepsTable k) : KeepsTable (bnryWrite c v k) :=
  keepsTable_selectPage c _ (keepsTable_neWr hk)

theorem keepsTable_currWrite (c : Params) (v : Byte) (hk : KeepsTable k) : KeepsTable (currWrite c v k) :=
  keepsTable_selectPage c _ (keepsTable_neWr hk)

theorem keepsTable_rsarWrite (c : Params) (v : Half) (hk : KeepsTable k) : KeepsTable (rsarWrite c v k) :=
  keepsTable_selectPage c _ (keepsTable_neWr (keepsTable_neWr hk))

theorem keepsTable_rbcrWrite (c : Params) (v : Half) (hk : KeepsTable k) : KeepsTable (rbcrWrite c v k) :=
  keepsTable_selectPage c _ (keepsTable_neWr (keepsTable_neWr hk))

theorem keepsTable_remoteRead (c : Params) (addr count : Half) (hk : KeepsTable k) :
    KeepsTable (remoteRead c addr count k) :=
  keepsTable_rsarWrite c _ <| keepsTable_rbcrWrite c _ <| keepsTable_neCommand c _ hk

theorem keepsTable_fifoWords (c : Params) {k : List Half → Prog} (hk : ∀ ws, KeepsTable (k ws)) (n : Nat)
    (got : List Half) : KeepsTable (fifoWords c k n got) := by
  induction n generalizing got with
  | zero => exact hk _
  | succ n ih => exact keepsTable_neRd16 fun w => ih (w :: got)

theorem tableInv_bindBase {s : State} (h : TableInv s) : TableInv (bindBase s).2 := by
  unfold bindBase
  split
  · exact h
  · split <;> exact h

theorem keepsTable_bind {onBound onNone : Prog} (hb : KeepsTable onBound) (hn : KeepsTable onNone) :
    KeepsTable (bind onBound onNone) := by
  refine keeps_act (fun _ => tableInv_bindBase) fun r => ?_
  dsimp only
  split
  · exact keepsTable_raise _ hn
  · exact keeps_upd (fun _ h => h) <| keeps_upd (fun _ h => h) <| keeps_upd (fun _ h => h) <|
      keeps_upd (fun _ h => h) hb

theorem keepsTable_resetPoll (c : Params) : KeepsTable (resetPoll c) :=
  keepsTable_neRd fun st => by
    cases st.getLsbD c.num.isrRst with
    | true => exact keepsTable_lastPhase _
    | false => exact keepsTable_push _

theorem keepsTable_neReset (c : Params) : KeepsTable (neReset c) := by
  unfold neReset
  exact keepsTable_neRd fun _ => keepsTable_neWr (keepsTable_resetPoll c)

theorem keepsTable_startPoll (c : Params) : KeepsTable (startPoll c) :=
  keepsTable_neRd fun st => by
    cases st.getLsbD c.num.isrRst with
    | true => exact keepsTable_push _
    | false => exact keepsTable_lastPhase _

theorem keepsTable_promWords (c : Params) (n : Nat) : KeepsTable (promWords c n) := by
  induction n with
  | zero => exact keeps_done
  | succ n ih => exact keepsTable_neRd16 fun _ => keeps_upd (fun _ h => h) (keeps_upd (fun _ h => h) ih)

theorem keepsTable_parWrites (c : Params) (hk : KeepsTable k) (n : Nat) : KeepsTable (parWrites c k n) := by
  induction n with
  | zero => exact hk
  | succ n ih => exact keeps_read fun _ => keepsTable_neWr ih

theorem keepsTable_neBasicinit (c : Params) : KeepsTable (neBasicinit c) :=
  keepsTable_selectPage c _ <| keepsTable_neCommand c _ <| keepsTable_neWr <| keepsTable_rbcrWrite c _ <|
    keepsTable_neWr <| keepsTable_neWr <| keepsTable_lastPhase _

theorem keepsTable_neRing (c : Params) : KeepsTable (neRing c) :=
  keepsTable_selectPage c _ <| keepsTable_neWr <| keepsTable_neWr <| keepsTable_bnryWrite c _ <|
    keepsTable_currWrite c _ <| keepsTable_selectPage c _ <| keeps_upd (fun _ h => h) <| keepsTable_lastPhase _

theorem keepsTable_neHook (c : Params) : KeepsTable (neHook c) :=
  keeps_upd (fun _ h => h) <| keeps_upd (fun _ h => h) <| keeps_upd (fun _ h => h) <| keeps_upd (fun _ h => h) <|
    keepsTable_lastPhase _

theorem keepsTable_neLbclr (c : Params) : KeepsTable (neLbclr c) :=
  keepsTable_guardIf (fun _ hk => keepsTable_selectPage c _ (keepsTable_neWr (keepsTable_neWr hk)))
    (keepsTable_lastPhase _)

end

/-! ## The queue and the receive pipeline: no part touches the table -/

section
variable {k : Prog}

theorem keepsTable_enqueue (f : State → List Frame) (hk : KeepsTable k) : KeepsTable (enqueue f k) :=
  keepsTable_guardIf (fun _ => keeps_upd fun _ h => h) hk

theorem keepsTable_dequeue (hk : KeepsTable k) : KeepsTable (dequeue k) :=
  keepsTable_guardIf (fun _ => keeps_upd fun _ => tableInv_congr (by simp) (by simp)) hk

theorem keepsTable_rxPending (c : Params) {k : Bool → Prog} (hk : ∀ b, KeepsTable (k b)) :
    KeepsTable (rxPending c k) :=
  keepsTable_selectPage c _ <| keepsTable_neRd fun _ => keeps_read fun _ => hk _

theorem keepsTable_rxHdr (c : Params) (hk : KeepsTable k) : KeepsTable (rxHdr c k) :=
  keeps_read fun _ => keepsTable_remoteRead c _ _ <| keepsTable_neRd16 fun _ => keepsTable_neRd16 fun _ =>
    keeps_upd (fun _ h => h) hk

theorem keepsTable_rxRunt {yes no : Prog} (hy : KeepsTable yes) (hn : KeepsTable no) : KeepsTable (rxRunt yes no) :=
  keeps_test (keeps_upd (fun _ h => h) hy) hn

theorem tableInv_allocate (n : Nat) {s : State} (h : TableInv s) : TableInv (allocate n s).2 :=
  tableInv_congr (by simp) (by simp) h

theorem keepsTable_rxAlloc (c : Params) {k : Bool → Prog} (hk : ∀ b, KeepsTable (k b)) :
    KeepsTable (rxAlloc c k) := by
  refine keeps_act (fun _ => tableInv_allocate _) fun v => ?_
  dsimp only
  split
  · exact keepsTable_log _ <| keeps_upd (fun _ h => h) <| keeps_upd (fun _ h => h) (hk _)
  · refine keeps_read fun n => keeps_act (fun _ => tableInv_allocate _) fun v => ?_
    dsimp only
    split
    · exact keeps_upd (fun _ h => h) <| keeps_upd (fun _ h => h) <| keepsTable_log _ <|
        keeps_upd (fun _ h => h) (hk _)
    · exact keeps_upd (fun _ h => h) <| keeps_upd (fun _ h => h) (hk _)

theorem keepsTable_rxAddr (c : Params) (hk : KeepsTable k) : KeepsTable (rxAddr c k) := by
  have hset : ∀ ws, KeepsTable (.upd (setAddresses (ethOfWords ws)) k) := fun _ => keeps_upd (fun _ h => h) hk
  exact keeps_read fun _ => keeps_read fun _ => keepsTable_remoteRead c _ _ <| keepsTable_fifoWords c hset _ _

theorem keepsTable_readPayload (c : Params) (n : Nat) {k : List Byte → Prog} (hk : ∀ bs, KeepsTable (k bs)) :
    KeepsTable (readPayload c n k) := by
  refine keepsTable_fifoWords c (fun ws => ?_) _ _
  split
  · exact keepsTable_neRd fun _ => hk _
  · exact hk _

theorem keepsTable_rxPayload (c : Params) (hk : KeepsTable k) : KeepsTable (rxPayload c k) :=
  keeps_frameRec (fun _ => tableInv_congr (by simp) (by simp)) fun _ =>
    keepsTable_readPayload c _ fun _ => keepsTable_enqueue _ (keeps_upd (fun _ h => h) hk)

theorem keepsTable_rxDrop (hk : KeepsTable k) : KeepsTable (rxDrop k) :=
  keeps_frameRec (fun _ => tableInv_congr (by simp) (by simp)) fun _ => keeps_upd (fun _ h => h) <|
    keeps_upd (fun _ h => h) <| keeps_upd (fun _ h => h) <| keeps_upd (fun _ h => h) hk

theorem keepsTable_rxAdvance (c : Params) (hk : KeepsTable k) : KeepsTable (rxAdvance c k) :=
  keeps_upd (fun _ h => h) <| keepsTable_neCommand c _ <| keeps_read fun _ => keepsTable_bnryWrite c _ hk

theorem keepsTable_rxFrame (c : Params) (hk : KeepsTable k) : KeepsTable (rxFrame c k) := by
  have hadvance : KeepsTable (rxAdvance c k) := keepsTable_rxAdvance c hk
  refine keepsTable_rxHdr c <| keepsTable_rxRunt hadvance <| keepsTable_rxAlloc c fun ok => ?_
  split
  · exact keepsTable_rxAddr c <| keeps_test (keepsTable_rxPayload c hadvance) (keepsTable_rxDrop hadvance)
  · exact hadvance

theorem keepsTable_rxAck (c : Params) : KeepsTable (rxAck c) :=
  keepsTable_selectPage c _ <| keeps_read fun _ => keepsTable_neWr keeps_done

theorem keepsTable_irqLoop (c : Params) : KeepsTable (irqLoop c) := by
  refine keepsTable_rxPending c fun b => ?_
  split
  · exact keepsTable_rxFrame c (keepsTable_push _)
  · exact keepsTable_rxAck c

end

/-! ## Every operation is a program -/

/-- All parts of an operation: those of `instrProg`, and the one part of each operation that has no more. -/
def allParts (c : Params) : Instr → Prog
  | .lfsrShift r b => .answer (.byte (lfsrShift r b))
  | .pnpAddr reg => .wr8 Config.pnpAddressPort reg .done
  | .pnpIsosel => isoSelect c .done
  | .idDecode => .last idDecode
  | .isoEnum => .last (push [.enumAt 0])
  | .pnpEngine =>
    .last (push [.op .keySend, .setPhase .keySent, .op .isoEnum, .op .cfgAll, .setPhase .configured])
  | .recEnd body => recEnd body c
  | .recUnknown form tag => recUnknown form tag c
  | .neRegWr reg v => .neWr (reg.setWidth 16) v .done
  | .rxClassify => rxClassify c
  | .qGuard body => .last (qGuard body)
  | .smallUnknown0 _ => recUnknown .small 0x0 c
  | .smallUnknown6 _ => recUnknown .small 0x6 c
  | .smallUnknown7 _ => recUnknown .small 0x7 c
  | .smallUnknown9 _ => recUnknown .small 0x9 c
  | .smallUnknownA _ => recUnknown .small 0xA c
  | .smallUnknownB _ => recUnknown .small 0xB c
  | .smallUnknownC _ => recUnknown .small 0xC c
  | .smallUnknownD _ => recUnknown .small 0xD c
  | .smallUnknownE _ => recUnknown .small 0xE c
  | .largeUnknown tag _ => recUnknown .large tag c
  | .sampleOne => sampleResult Config.sampleOne
  | .sampleZero => sampleResult Config.sampleZero
  | .sampleNocard v => sampleResult v
  | i => instrProg c i

/-- Every instruction runs its parts where its preconditions hold. -/
theorem exec_eq_operate (i : Instr) (s : State) :
    ∃ rs, exec i s = operate (.op i) rs (fun c => allParts c i) s := by
  cases i <;> exact ⟨_, rfl⟩

/-- No instruction has a part that takes the table beyond its capacities. -/
theorem keepsTable_allParts (c : Params) (i : Instr) : KeepsTable (allParts c i) := by
  cases i
  case pnpWr | pnpWake | pnpSetcsn | pnpRegConfigControl | pnpRegWake | pnpRegCsn | pnpRegLogicalDevice |
    pnpRegActivate | pnpRegIoRangeCheck | pnpRegIoBaseHi | pnpRegIoBaseLo | pnpRegIrqLevel | pnpRegIrqType =>
    exact keepsTable_cfgWr keeps_done
  case pnpSetrdp | pnpRegSetRdData => exact keepsTable_cfgWr (keeps_upd (fun _ h => h) keeps_done)
  case pnpRd | pnpRegSerialIsolation | pnpRegResourceData | pnpRegStatus =>
    exact keepsTable_cfgRd fun _ => keepsTable_answer _
  case pnpAddr | pnpIsosel => exact keepsTable_wr8 keeps_done
  case neRegWr => exact keepsTable_neWr keeps_done
  case lfsrShift | idDecode | recEnd | rxClassify | qGuard => exact keeps_last fun _ h => h
  case isoEnum | pnpEngine => exact keepsTable_push _
  case recUnknown | smallUnknown0 | smallUnknown6 | smallUnknown7 | smallUnknown9 | smallUnknownA | smallUnknownB |
    smallUnknownC | smallUnknownD | smallUnknownE | largeUnknown => exact keepsTable_fail _
  case sampleOne => exact keepsTable_sampleResult Config.sampleOne
  case sampleZero => exact keepsTable_sampleResult Config.sampleZero
  case sampleNocard v => exact keepsTable_sampleResult v
  case keySend => exact keepsTable_keySend c
  case idSample => exact keepsTable_idSample keepsTable_sampleResult
  case idRead => exact keepsTable_idReadOp c
  case isoRound => exact keepsTable_isoRound _ c
  case rdByte => exact keepsTable_rdPoll c (fun _ => keepsTable_answer _) (keepsTable_push _)
  case rdHeader => exact keepsTable_rdHeader c
  case rdBody | tagVersion | tagLogdev | tagCompat | tagIrq | tagDma | tagIoport | tagEnd | tagAnsi =>
    exact keepsTable_readBody _ c _ _
  case tagMem | tagMem32 => exact keepsTable_memoryRecord _ _ c
  case rdDecode => exact keeps_upd (fun _ h => h) (keeps_upd (fun _ h => h) (keepsTable_push _))
  case recVersion body => exact keepsTable_recVersion body c
  case recLogdev body => exact keepsTable_recLogdev body c
  case recCompat body => exact keepsTable_recCompat body c
  case recIrq body => exact keepsTable_recIrq body c
  case recDma body => exact keepsTable_recDma body c
  case recIoport body => exact keepsTable_recIoport body c
  case recAnsi body => exact keepsTable_recAnsi body c
  case recMem | recMem32 => exact keepsTable_recMemory _ _ _ c
  case cfgMatch => exact keepsTable_ld fun _ => keepsTable_answer _
  case cfgSelect => exact keepsTable_cfgSelect c _ _ keeps_done
  case cfgIo => exact keepsTable_cfgIoOp _ _ _ c
  case cfgProbe => exact keepsTable_cfgProbe c _ _ fun _ => keepsTable_answer _
  case cfgIrq => exact keepsTable_cfgIrq _ _ fun _ => keeps_done
  case cfgActivate => exact keepsTable_cfgActivate c _ _ keeps_done
  case cfgDevice => exact keepsTable_cfgDevice c _ _ keeps_done
  case cfgAll => exact keepsTable_cfgAll c
  case nePage => exact keepsTable_selectPage c _ keeps_done
  case neCmd | neDmaStop | cmdStop | cmdStart | cmdRread => exact keepsTable_neCommand c _ keeps_done
  case neBnryWr => exact keepsTable_bnryWrite c _ keeps_done
  case neCurrWr => exact keepsTable_currWrite c _ keeps_done
  case neRsar => exact keepsTable_rsarWrite c _ keeps_done
  case neRbcr => exact keepsTable_rbcrWrite c _ keeps_done
  case neRdmaRead => exact keepsTable_remoteRead c _ _ keeps_done
  case neBnryRd | neCurrRd => exact keepsTable_selectPage c _ (keepsTable_neReadOp _)
  case neRegRd | neFifoRd8 => exact keepsTable_neReadOp _
  case neFifoRd16 => exact keepsTable_neRd16 fun _ => keepsTable_answer _
  case neBind => exact keepsTable_bind (keepsTable_answer _) keeps_done
  case neInit => exact keepsTable_bind (keepsTable_push _) (keepsTable_lastPhase _)
  case neReset => exact keepsTable_neReset c
  case neBasicinit => exact keepsTable_neBasicinit c
  case neProm => exact keepsTable_remoteRead c _ _ (keepsTable_promWords c _)
  case neMac => exact keepsTable_selectPage c _ (keepsTable_parWrites c (keepsTable_lastPhase _) _)
  case neRing => exact keepsTable_neRing c
  case neStart => exact keepsTable_neCommand c _ (keepsTable_startPoll c)
  case neIrqen => exact keepsTable_selectPage c _ (keepsTable_neWr keeps_done)
  case neHook => exact keepsTable_neHook c
  case neLbclr => exact keepsTable_neLbclr c
  case rxIrq => exact keepsTable_selectPage c _ <| keepsTable_neRd fun _ => keeps_upd (fun _ h => h) (keepsTable_push _)
  case rxPending => exact keepsTable_rxPending c fun _ => keepsTable_answer _
  case rxHdr => exact keepsTable_rxHdr c keeps_done
  case rxRunt => exact keepsTable_rxRunt (keepsTable_answer _) (keepsTable_answer _)
  case rxAlloc => exact keepsTable_rxAlloc c fun _ => keeps_done
  case rxAddr => exact keepsTable_rxAddr c keeps_done
  case rxPayload => exact keepsTable_rxPayload c keeps_done
  case rxDrop => exact keepsTable_rxDrop keeps_done
  case rxAdvance => exact keepsTable_rxAdvance c keeps_done
  case rxFrame => exact keepsTable_rxFrame c keeps_done
  case rxAck => exact keepsTable_rxAck c
  case qEnq => exact keepsTable_enqueue _ keeps_done
  case qDeq => exact keepsTable_dequeue keeps_done
  case qSize => exact keepsTable_guardIf (fun _ => keeps_upd fun _ h => h) keeps_done
  case qWait => exact keepsTable_dequeue (keeps_test (keepsTable_push _) keeps_done)

/-- What a split operation resumes from is all its parts, or nothing where it has only one and cannot be split. -/
theorem instrProg_eq (c : Params) (i : Instr) : instrProg c i = allParts c i ∨ instrProg c i = .done := by
  cases i
  case lfsrShift | pnpAddr | pnpIsosel | idDecode | isoEnum | pnpEngine | recEnd | recUnknown | neRegWr | rxClassify |
    qGuard | smallUnknown0 | smallUnknown6 | smallUnknown7 | smallUnknown9 | smallUnknownA | smallUnknownB |
    smallUnknownC | smallUnknownD | smallUnknownE | largeUnknown | sampleOne | sampleZero | sampleNocard =>
    exact .inr rfl
  all_goals exact .inl rfl

theorem keepsTable_taskProg (c : Params) (t : Task) : KeepsTable (taskProg c t) := by
  cases t with
  | op i =>
    show KeepsTable (instrProg c i)
    rcases instrProg_eq c i with h | h <;> rw [h]
    · exact keepsTable_allParts c i
    · exact keeps_done
  | enumAt k => exact keepsTable_enumAt k c
  | enumRounds k first found => exact keepsTable_enumRounds k first found c
  | enumAfter k found => exact keepsTable_enumAfter k found c
  | headerRest got => exact keepsTable_headerRest got c
  | bodyRest u n got => exact keepsTable_readBody u c n got
  | resetPoll => exact keepsTable_resetPoll c
  | startPoll => exact keepsTable_startPoll c
  | irqLoop => exact keepsTable_irqLoop c
  | _ => exact keeps_done

/-! ## From a part to a step -/

theorem tableInv_deliver {s : State} (h : TableInv s) : TableInv (deliver s) := by
  rcases deliver_cases s with ⟨-, b, e, -⟩ | ⟨b, e, -⟩ <;> rw [e] <;> exact h

theorem tableInv_boundary {s : State} (h : TableInv s) : TableInv (boundary s) := by
  rcases boundary_cases s with ⟨-, -, e⟩ | ⟨-, e⟩ <;> rw [e] <;> exact tableInv_deliver h

/-- With the boundaries between its parts, where a handler run may start, a program keeps what its parts keep. -/
theorem tableInv_run {p : Prog} (hp : KeepsTable p) (t : Task) (got : List Val) {s : State} (h : TableInv s) :
    TableInv (p.run t got s) :=
  keeps_run (P := TableInv) (fun _ => tableInv_deliver) (fun _ _ _ h => h) hp got h

theorem tableInv_operate {t : Task} {rs : List Req} {p : Params → Prog} (hp : ∀ c, KeepsTable (p c)) {s u : State}
    (h : TableInv s) (e : operate t rs p s = .next u) : TableInv u := by
  obtain ⟨-, rfl⟩ := guarded_next.1 e
  exact tableInv_run (hp _) t [] h

theorem tableInv_exec {i : Instr} {s t : State} (h : TableInv s) (e : exec i s = .next t) : TableInv t := by
  obtain ⟨rs, hexec⟩ := exec_eq_operate i s
  exact tableInv_operate (fun c => keepsTable_allParts c i) h (hexec.symm.trans e)

theorem tableInv_resumeTask (t : Task) (got : List Val) {s : State} (h : TableInv s) :
    TableInv (resumeTask t got s) :=
  tableInv_run (keeps_after (keepsTable_taskProg _ t) _) t got h

theorem tableInv_decodeDispatch {s : State} (h : TableInv s) : TableInv (decodeDispatch s) := by
  unfold decodeDispatch
  split <;> exact h

/-- A passing end tag marks the card's data valid, and changes no list (41 R180). -/
theorem tableInv_decodeNext {s : State} (h : TableInv s) : TableInv (decodeNext s) := by
  unfold decodeNext
  split
  · exact h
  · exact tableInv_modCrd (f := fun c => { c with valid := true }) (fun _ hc => hc) _ h
  · exact tableInv_raise _ h
  · exact h

theorem tableInv_runTask {t : Task} {s u : State} (h : TableInv s) (e : runTask t s = .next u) : TableInv u := by
  cases t with
  | line l =>
    simp only [runTask] at e
    split at e
    · exact tableInv_exec h e
    · exact nomatch e
  | op i => exact tableInv_exec h e
  | setPhase p => cases e; exact h
  | answer r => cases e; exact h
  | restoreIf b => cases e; exact h
  | enumAt k => exact tableInv_operate (keepsTable_enumAt k) h e
  | enumRounds k first found => exact tableInv_operate (keepsTable_enumRounds k first found) h e
  | enumAfter k found => exact tableInv_operate (keepsTable_enumAfter k found) h e
  | headerRest got => exact tableInv_operate (keepsTable_headerRest got) h e
  | bodyRest v n got => exact tableInv_operate (fun c => keepsTable_readBody v c n got) h e
  | decodeDispatch =>
    obtain ⟨-, rfl⟩ := guarded_next.1 e
    exact tableInv_decodeDispatch h
  | decodeNext =>
    obtain ⟨-, rfl⟩ := guarded_next.1 e
    exact tableInv_decodeNext h
  | resetPoll => exact tableInv_operate keepsTable_resetPoll h e
  | startPoll => exact tableInv_operate keepsTable_startPoll h e
  | irqLoop => exact tableInv_operate keepsTable_irqLoop h e
  | waitHalt =>
    obtain ⟨-, rfl⟩ := guarded_next.1 e
    exact h
  | resume t got =>
    obtain ⟨-, rfl⟩ := guarded_next.1 e
    exact tableInv_resumeTask t got h

/-- Settles O56: every part of every operation keeps the invariant, and so does each boundary between two parts, so a
step does, whichever parts it runs. -/
theorem stepKeepsTable : Obligations.StepKeepsTable := by
  intro s t h e
  unfold step at e
  split at e
  · unfold stepOnce at e
    split at e
    · cases e
      exact tableInv_boundary h
    · rename_i task ts _
      obtain ⟨u, hu, rfl⟩ : ∃ u, runTask task (setTodo ts s) = .next u ∧ boundary u = t := by
        unfold afterStep at e
        split at e
        · exact ⟨_, ‹_›, Host.Outcome.next.inj e⟩
        · exact nomatch e
        · exact nomatch e
      exact tableInv_boundary (tableInv_runTask (s := setTodo ts s) h hu)
  · exact nomatch e

end Sys2Proof.Machine

/-! PROOFS. The state: what reset leaves and which invariants hold there (O6, O59), what an update of one logical device
does to the table (O24), the records that attach to one (O22), what a read before the first write stops and what it
does not (O53), and the reference agents (O60). First the rules about the table, then the operations. -/

namespace Sys2Proof.Machine

/-! ## Reset -/

/-- Settles O6: field by field. -/
theorem resetState : Obligations.ResetState := by
  have hunwritten : ∀ r, State.reset.isWritten r = false := fun r => by cases r <;> rfl
  exact ⟨rfl, rfl, rfl, rfl, rfl, rfl, rfl, rfl, rfl, rfl, rfl, rfl, hunwritten, rfl, rfl, rfl, rfl, rfl, rfl, rfl, rfl,
    rfl, rfl, rfl⟩

theorem reset_tableInv : TableInv State.reset := ⟨by decide, nofun, nofun, nofun⟩

theorem reset_contextInv : ContextInv State.reset := ⟨nofun, nofun⟩

theorem reset_registerInv : RegisterInv State.reset := ⟨nofun, by decide, by decide, nofun⟩

/-- No step has been split yet: the main context has nothing to do. -/
theorem reset_splitInv : SplitInv State.reset := fun _ _ h => absurd h List.not_mem_nil

theorem reset_heapInv : HeapInv State.reset := ⟨nofun, List.nodup_nil⟩

/-- Settles O59: one lemma per invariant. -/
theorem resetInvariants : Obligations.ResetInvariants :=
  ⟨⟨reset_tableInv, reset_contextInv, reset_registerInv, reset_splitInv, reset_heapInv⟩, reset_memoryInv, nofun⟩

/-! ## One entry of the table -/

theorem getD_modify_self {α : Type} {xs : List α} {i : Nat} (h : i < xs.length) (f : α → α) (d : α) :
    (xs.modify i f).getD i d = f (xs.getD i d) := by
  simp [List.getD_eq_getElem?_getD, h]

theorem getD_modify_ne {α : Type} (xs : List α) {i j : Nat} (h : j ≠ i) (f : α → α) (d : α) :
    (xs.modify i f).getD j d = xs.getD j d := by
  simp [List.getD_eq_getElem?_getD, h.symm]

/-- A change depends only on what it makes of the entry it is made to. -/
theorem modify_congr_getD {α : Type} {xs : List α} {i : Nat} {f g : α → α} {d : α}
    (h : f (xs.getD i d) = g (xs.getD i d)) : xs.modify i f = xs.modify i g := by
  induction xs generalizing i with
  | nil => simp
  | cons x xs ih =>
    cases i with
    | zero => simpa using h
    | succ i => simpa using ih (by simpa using h)

theorem device_modCrd_self {i : Nat} {s : State} (h : i < s.dev.length) (f : Crd → Crd) :
    (modCrd i f s).device i = { s.device i with crd := f (s.device i).crd } := getD_modify_self h _ _

theorem device_modCrd_ne {i i' : Nat} (h : i' ≠ i) (f : Crd → Crd) (s : State) :
    (modCrd i f s).device i' = s.device i' := getD_modify_ne s.dev h _ _

/-- An entry at or beyond `DEVCOUNT` reads as the empty device. -/
theorem device_of_le {i : Nat} {s : State} (h : s.dev.length ≤ i) : s.device i = Device.empty :=
  List.getD_eq_default _ _ h

/-- A logical device is in use exactly when its index is below `ldcount`: a card beyond `DEVCOUNT` has none. -/
theorem ldThere_iff (s : State) (i j : Nat) : LdThere s i j ↔ j < (s.device i).crd.lds.length := by
  refine ⟨fun h => h.2, fun h => ⟨?_, h⟩⟩
  by_contra hi
  rw [device_of_le (Nat.le_of_not_lt hi)] at h
  exact absurd h (Nat.not_lt_zero j)

theorem ld_modLd_self {i j : Nat} {s : State} (h : LdThere s i j) (f : LogicalDevice → LogicalDevice) :
    (modLd i j f s).ld i j = f (s.ld i j) := by
  unfold State.ld modLd
  rw [device_modCrd_self h.1]
  exact getD_modify_self h.2 _ _

theorem ld_modLd_ne {i j i' j' : Nat} {s : State} (h : i < s.dev.length) (hne : i' ≠ i ∨ j' ≠ j)
    (f : LogicalDevice → LogicalDevice) : (modLd i j f s).ld i' j' = s.ld i' j' := by
  unfold State.ld modLd
  by_cases hi : i' = i
  · subst hi
    rw [device_modCrd_self h]
    exact getD_modify_ne _ (hne.resolve_left fun hn => hn rfl) _ _
  · rw [device_modCrd_ne hi]

/-- A card keeps its own data and its number of logical devices (10 R31, R32). -/
theorem device_modLd {i : Nat} {s : State} (h : i < s.dev.length) (j i' : Nat) (f : LogicalDevice → LogicalDevice) :
    ((modLd i j f s).device i').crd.lds.length = (s.device i').crd.lds.length ∧
      { (modLd i j f s).device i' with crd := { ((modLd i j f s).device i').crd with lds := [] } } =
        { s.device i' with crd := { (s.device i').crd with lds := [] } } := by
  unfold modLd
  by_cases hi : i' = i
  · subst hi
    rw [device_modCrd_self h]
    exact ⟨List.length_modify _ _ _, rfl⟩
  · rw [device_modCrd_ne hi]
    exact ⟨rfl, rfl⟩

/-- Settles O24. -/
theorem tableUpdate : Obligations.TableUpdate := fun _ _ j f h =>
  ⟨rfl, List.length_modify _ _ _, ld_modLd_self h f, fun i' =>
    ⟨device_modLd h.1 j i' f, fun _ hne => ld_modLd_ne h.1 hne f⟩⟩

/-! ## The reference agents -/

/-- A card that has heard the first `n` bytes of the key waits for the next (95 section 2.1 item 1). -/
theorem onAddress_keyBytes {c : Card} (hs : c.cstate = .waitForKey) (hp : c.keypos = 0) {n : Nat}
    (hn : n < Config.keyLen) :
    ((List.range n).map keyByte).foldl (fun c v => c.onAddress v) c = { c with keypos := n } := by
  induction n with
  | zero =>
    show c = { c with keypos := 0 }
    rw [← hp]
  | succ n ih =>
    have hlast : n + 1 ≠ Config.keyLen := Nat.ne_of_lt hn
    rw [List.range_succ, List.map_append, List.foldl_append, ih (by omega)]
    simp [Card.onAddress, hs, hlast]

/-- With the last byte of the key it sleeps. -/
theorem onAddress_wholeKey {c : Card} (hs : c.cstate = .waitForKey) (hp : c.keypos = 0) :
    ((List.range 32).map keyByte).foldl (fun c v => c.onAddress v) c = { c with cstate := .sleep, keypos := 32 } := by
  rw [List.range_succ, List.map_append, List.foldl_append, onAddress_keyBytes hs hp (by decide)]
  simp [Card.onAddress, hs, Config.keyLen]

theorem onAddress_wrongByte {c : Card} {v : Byte} (hs : c.cstate = .waitForKey) (hv : v ≠ keyByte c.keypos) :
    c.onAddress v = { c with keypos := if v = 0x6A then 1 else 0 } := by
  simp only [Card.onAddress, hs, hv, if_false]
  rfl

/-- The high bit of the `RD` field, as a bit of the byte and as a bit of the field (10 R44). -/
theorem commandsAbort_eq (m : Numbers) (v : Byte) :
    (!commandsAbort m v) = decide (((v >>> m.crRd) &&& 7) &&& 4 = 0) := by
  have hfield : ∀ w : Byte, (!w.getLsbD 2) = decide ((w &&& 7) &&& 4 = 0) := by decide
  rw [← hfield, BitVec.getLsbD_ushiftRight]
  rfl

/-- A command byte with `RD` = `001` starts a remote read (10 R44, 20 R88). -/
theorem command_read {m : Numbers} {v : Byte} (n : Nic) (h : (v >>> m.crRd) &&& 7 = 1) :
    (n.command m v).remote = true ∧ (n.command m v).crda = n.rsar ∧ (n.command m v).rbc = n.rbcr := by
  have hread : commandsRead m v = true := decide_eq_true h
  simp [Nic.command, hread]

/-- Any other leaves the address and the count, and ends an outstanding read when it is `1xx`. -/
theorem command_other {m : Numbers} {v : Byte} (n : Nic) (h : (v >>> m.crRd) &&& 7 ≠ 1) :
    (n.command m v).crda = n.crda ∧ (n.command m v).rbc = n.rbc ∧
      (n.command m v).remote = (n.remote && decide (((v >>> m.crRd) &&& 7) &&& 4 = 0)) := by
  have hread : commandsRead m v = false := decide_eq_false h
  rw [← commandsAbort_eq]
  simp [Nic.command, hread]

theorem reading_eq_true (n : Nic) : n.reading = true ↔ n.remote = true ∧ n.rbc ≠ 0 := by
  simp [Nic.reading]

/-- A FIFO read with nothing outstanding answers the free value and changes nothing (log 29). -/
theorem fifo_idle (m : Numbers) {n : Nic} (free : Half) (h : n.remote = false ∨ n.rbc = 0) :
    n.fifo16 m free = (free, n) ∧ n.fifo8 m free = (free.setWidth 8, n) := by
  have hr : ¬ n.reading = true := by
    rw [reading_eq_true]
    rintro ⟨hremote, hrbc⟩
    rcases h with h | h
    · simp [h] at hremote
    · exact hrbc h
  exact ⟨if_neg hr, if_neg hr⟩

/-- A FIFO word of an outstanding remote read (20 R76, R78). -/
theorem fifo16_reading (m : Numbers) {n : Nic} (free : Half) (h : n.reading = true) :
    n.fifo16 m free =
      (memRead16 n.mem n.crda, Nic.afterFifo m { n with crda := n.crda + 2, rbc := n.rbc - 2 }) := if_pos h

theorem request_iff (m : Numbers) (g : Agents) :
    g.request m = true ↔ ∃ n ∈ g.nics, n.isr &&& n.imr &&& ~~~((1 : Byte) <<< m.isrRst) ≠ 0 := by
  unfold Agents.request
  rw [List.any_eq_true]
  exact exists_congr fun n => and_congr_right fun _ => decide_eq_true_iff

/-- Settles O60. -/
theorem referenceAgents : Obligations.ReferenceAgents := by
  refine ⟨fun c hs hp => onAddress_wholeKey hs hp, fun c v hs hv => onAddress_wrongByte hs hv,
    fun m v n => ⟨rfl, rfl, command_read n, command_other n⟩, fun m n free h => fifo_idle m free h, ?_, request_iff⟩
  intro m n free hremote hrbc
  rw [fifo16_reading m free ((reading_eq_true n).2 ⟨hremote, hrbc⟩)]
  exact ⟨rfl, rfl, rfl, rfl, if_congr sub_eq_zero rfl rfl⟩

/-! ## Records that attach to a logical device -/

/-- A change of a logical device depends only on what it makes of that device. -/
theorem modLd_congr {i j : Nat} {s : State} {f g : LogicalDevice → LogicalDevice} (h : f (s.ld i j) = g (s.ld i j)) :
    modLd i j f s = modLd i j g s := by
  unfold modLd modCrd
  congr 1
  refine modify_congr_getD (d := Device.empty) ?_
  simp only [modify_congr_getD (xs := (s.dev.getD i Device.empty).crd.lds) h]

/-- Where there is room the new entry is the last (10 R31 to R33). -/
theorem addEntry_of_lt {α : Type} {cap : Nat} {xs : List α} (h : xs.length < cap) (x : α) :
    addEntry cap xs x = xs ++ [x] := List.take_of_length_le (by simpa using h)

/-- The main context may run a record that attaches to `DEV[d]`, in use or not: everything but that is `DecodingAt`. -/
def CanAttach (d : Nat) (s : State) : Prop := PnpReady s ∧ s.dec.card = some d ∧ s.wr.curld = true

theorem canAttach_of_decoding {d : Nat} {s : State} (h : DecodingAt d s) : CanAttach d s := ⟨h.1, h.2.1, h.2.2.2⟩

theorem card_eq {d : Nat} {s : State} (h : s.dec.card = some d) : s.card = d := by simp [State.card, h]

/-- An operation of the main context that needs the key and whose further preconditions hold runs its parts. -/
theorem operate_pnp {t : Task} {rs : List Req} {p : Params → Prog} {s : State} (h : PnpReady s)
    (hrs : ∀ r ∈ rs, r.holds s = true) (hp : Steady (p s.cfg)) :
    operate t (.mainContext :: .key :: rs) p s = .next ((p s.cfg).exec s) := by
  obtain ⟨hirq, hkey, hquiet⟩ := h
  refine operate_steady (fun r hr => ?_) hp hquiet
  rcases List.mem_cons.1 hr with rfl | hr
  · simp [Req.holds, hirq]
  · rcases List.mem_cons.1 hr with rfl | hr
    · exact hkey
    · exact hrs r hr

theorem operate_attach {d : Nat} {t : Task} {p : Params → Prog} {s : State} (h : CanAttach d s)
    (hp : Steady (p s.cfg)) : operate t attachReqs p s = .next ((p s.cfg).exec s) := by
  obtain ⟨hready, hcard, hcurld⟩ := h
  exact operate_pnp hready (by simp [Req.holds, State.isWritten, hcard, hcurld]) hp

section
variable {d : Nat} {s : State}

theorem exec_recCompat (h : CanAttach d s) (body : List Byte) :
    exec (.recCompat body) s = .next ((recCompat body s.cfg).exec s) :=
  operate_attach h (steady_runRecord .compat body s.cfg)

theorem exec_recIrq (h : CanAttach d s) (body : List Byte) :
    exec (.recIrq body) s = .next ((recIrq body s.cfg).exec s) :=
  operate_attach h (steady_runRecord .irq body s.cfg)

theorem exec_recDma (h : CanAttach d s) (body : List Byte) :
    exec (.recDma body) s = .next ((recDma body s.cfg).exec s) :=
  operate_attach h (steady_runRecord .dma body s.cfg)

theorem exec_recIoport (h : CanAttach d s) (body : List Byte) :
    exec (.recIoport body) s = .next ((recIoport body s.cfg).exec s) :=
  operate_attach h (steady_runRecord .ioport body s.cfg)

/-- What stores a memory range where it is stored (41 R181). -/
def storeMemory (kind : MemKind) (body : List Byte) : Prog :=
  attach fun j => cardLd j fun l =>
    if Config.memCap ≤ l.mem.length then .log .capacityMem .done else fill (.mem ⟨kind, body⟩) <| countNew j .done

theorem recMemory_storeRaw {c : Params} (h : c.memRecords = .storeRaw) (kind : MemKind) (tag : Byte)
    (body : List Byte) : recMemory kind tag body c = storeMemory kind body := by
  simp only [recMemory, h]
  rfl

theorem recMemory_reject {c : Params} (h : c.memRecords = .reject) (kind : MemKind) (tag : Byte) (body : List Byte) :
    recMemory kind tag body c = recUnknown .large tag c := by
  simp only [recMemory, h]

section
variable {t : Task} {p : Params → Prog} {kind : MemKind} {tag : Byte} {body : List Byte}

theorem operate_memory_storeRaw (h : CanAttach d s) (hm : s.cfg.memRecords = .storeRaw)
    (hp : p s.cfg = recMemory kind tag body s.cfg) :
    operate t (memoryReqs s) p s = .next ((storeMemory kind body).exec s) := by
  have hreqs : memoryReqs s = attachReqs := by simp only [memoryReqs, hm]
  rw [hreqs, operate_attach h (hp ▸ steady_recMemory _ _ _ _), hp, recMemory_storeRaw hm]

/-- With `MEM_RECORDS = reject` the tag is unknown (10 R36, 41 R183; log 20). -/
theorem operate_memory_reject (h : PnpReady s) (hm : s.cfg.memRecords = .reject)
    (hp : p s.cfg = recMemory kind tag body s.cfg) :
    operate t (memoryReqs s) p s = .next (raise (.unknownTag .large tag) s) := by
  have hreqs : memoryReqs s = [.mainContext, .key] := by simp only [memoryReqs, hm]
  rw [hreqs, operate_pnp h (by simp) (hp ▸ steady_recMemory _ _ _ _), hp, recMemory_reject hm]
  rfl

end

theorem exec_recMem_storeRaw (h : CanAttach d s) (hm : s.cfg.memRecords = .storeRaw) (body : List Byte) :
    exec (.recMem body) s = .next ((storeMemory .mem16 body).exec s) :=
  operate_memory_storeRaw (tag := s.cfg.num.tagMem) h hm rfl

theorem exec_recMem32_storeRaw (h : CanAttach d s) (hm : s.cfg.memRecords = .storeRaw) (body : List Byte) :
    exec (.recMem32 body) s = .next ((storeMemory .mem32 body).exec s) :=
  operate_memory_storeRaw (tag := s.cfg.num.tagMem32) h hm rfl

theorem exec_recMem_reject (h : PnpReady s) (hm : s.cfg.memRecords = .reject) (body : List Byte) :
    exec (.recMem body) s = .next (raise (.unknownTag .large s.cfg.num.tagMem) s) :=
  operate_memory_reject (kind := .mem16) (body := body) h hm rfl

theorem exec_recMem32_reject (h : PnpReady s) (hm : s.cfg.memRecords = .reject) (body : List Byte) :
    exec (.recMem32 body) s = .next (raise (.unknownTag .large s.cfg.num.tagMem32) s) :=
  operate_memory_reject (kind := .mem32) (body := body) h hm rfl

theorem exec_recUnknown (h : PnpReady s) (form : RecForm) (tag : Byte) :
    exec (.recUnknown form tag) s = .next (raise (.unknownTag form tag) s) :=
  operate_pnp h (by simp) steady_fail

end

/-! ### What attaching does -/

theorem exec_attach_none {s : State} (h : s.dec.curld = .none) (f : Fin 4 → Prog) :
    (attach f).exec s = logFailure .orphanRecord s := by simp [attach, h]

theorem exec_attach_overflow {s : State} (h : s.dec.curld = .overflow) (f : Fin 4 → Prog) :
    (attach f).exec s = s := by simp [attach, h]

theorem exec_attach_index {s : State} {j : Fin 4} (h : s.dec.curld = .index j) (f : Fin 4 → Prog) :
    (attach f).exec s = (f j).exec s := by simp [attach, h]

theorem readLd_there {i j : Nat} {s : State} (h : LdThere s i j) : readLd i j s = (s.ld i j, s) := if_pos h.2

theorem exec_cardLd_there {j : Nat} {s : State} (h : LdThere s s.card j) (k : LogicalDevice → Prog) :
    (cardLd j k).exec s = (k (s.ld s.card j)).exec s := by
  simp only [cardLd, exec_ld, readLd_there h]

/-- A record of a logical device in use is stored where there is room, else leaves one diagnostic (41 R175 to R178,
R181, R182). -/
theorem exec_attach_there {d : Nat} {s : State} {j : Fin 4} (hcard : s.card = d) (hj : s.dec.curld = .index j)
    (hl : LdThere s d j) {full : LogicalDevice → Prop} [DecidablePred full] {f : Failure}
    {store : Fin 4 → LogicalDevice → Prog} {room : Prop} [Decidable room] (hroom : full (s.ld d j) ↔ ¬ room) {u : State}
    (hstore : room → (store j (s.ld d j)).exec s = u) :
    (attach fun j => cardLd j fun l => if full l then .log f .done else store j l).exec s =
      if room then u else { s with log := s.log ++ [f] } := by
  subst hcard
  rw [exec_attach_index hj, exec_cardLd_there hl]
  by_cases hr : room
  · rw [if_neg fun hf => hroom.1 hf hr, if_pos hr, hstore hr]
  · rw [if_pos (hroom.2 hr), if_neg hr]
    rfl

section
variable {d : Nat} {s : State} {j : Fin 4}

/-- An entry that is filled in one line, counted where there is room. -/
theorem exec_fill_count_room {e : Entry} {f g : LogicalDevice → LogicalDevice} (he : e.added = some f)
    (hcard : s.card = d) (hfg : f (s.ld d j) = g (s.ld d j)) :
    (fill e (countNew j .done)).exec s = modLd d j g { s with fresh := none } := by
  subst hcard
  rw [exec_fill_countNew he, modLd_congr hfg]
  rfl

theorem recCompat_there (hcard : s.card = d) (hj : s.dec.curld = .index j) (hl : LdThere s d j) (body : List Byte)
    (c : Params) :
    (recCompat body c).exec s =
      if (s.ld d j).compat.length < 10 then
        modLd d j (fun l => { l with compat := l.compat ++ [fieldId body] }) { s with fresh := none }
      else { s with log := s.log ++ [.capacityCompat] } :=
  exec_attach_there hcard hj hl Nat.not_lt.symm fun hr =>
    exec_fill_count_room rfl hcard (by simp only [addEntry_of_lt (cap := Config.compatCap) hr])

theorem storeMemory_there (hcard : s.card = d) (hj : s.dec.curld = .index j) (hl : LdThere s d j) (kind : MemKind)
    (body : List Byte) :
    (storeMemory kind body).exec s =
      if (s.ld d j).mem.length < 4 then
        modLd d j (fun l => { l with mem := l.mem ++ [⟨kind, body⟩] }) { s with fresh := none }
      else { s with log := s.log ++ [.capacityMem] } :=
  exec_attach_there hcard hj hl Nat.not_lt.symm fun hr =>
    exec_fill_count_room rfl hcard (by simp only [addEntry_of_lt (cap := Config.memCap) hr])

theorem recIrq_there (hcard : s.card = d) (hj : s.dec.curld = .index j) (hl : LdThere s d j) (body : List Byte)
    (c : Params) :
    (recIrq body c).exec s =
      if (s.ld d j).irq = none then
        modLd d j (fun l => { l with irq := some ⟨field16 body 0, irqInfo body, s.dec.irqcfg, none⟩ })
          { s with dec := { s.dec with irqcfg := s.dec.irqcfg + c.cfgStep } }
      else { s with log := s.log ++ [.capacityIrq] } :=
  exec_attach_there hcard hj hl Option.isSome_iff_ne_none fun _ => by
    rw [exec_irqFields, hcard]
    rfl

theorem recDma_there (hcard : s.card = d) (hj : s.dec.curld = .index j) (hl : LdThere s d j) (body : List Byte)
    (c : Params) :
    (recDma body c).exec s =
      if (s.ld d j).dma = none then modLd d j (fun l => { l with dma := some ⟨field body 0, field body 1⟩ }) s
      else { s with log := s.log ++ [.capacityDma] } :=
  exec_attach_there hcard hj hl Option.isSome_iff_ne_none fun _ => by
    rw [exec_dmaFields, hcard]
    rfl

theorem modLd_addIo {j : Nat} (h : (s.ld d j).io.length < 8) (x : IoRange) :
    modLd d j (fun l => { l with io := addEntry Config.ioCap l.io x }) s =
      modLd d j (fun l => { l with io := l.io ++ [x] }) s :=
  modLd_congr (by simp only [addEntry_of_lt (cap := Config.ioCap) h])

theorem recIoport_there (hcard : s.card = d) (hj : s.dec.curld = .index j) (hl : LdThere s d j) (body : List Byte)
    (c : Params) :
    (recIoport body c).exec s =
      if (s.ld d j).io.length < 8 then
        modLd d j
          (fun l => { l with io := l.io ++ [⟨field body 0, field16 body 1, field16 body 3, field body 5, field body 6,
            s.dec.iocfg, none⟩] })
          { s with fresh := none, dec := { s.dec with iocfg := s.dec.iocfg + c.cfgStep } }
      else { s with log := s.log ++ [.capacityIo] } :=
  exec_attach_there hcard hj hl Nat.not_lt.symm fun hr => by
    rw [exec_newIo, hcard, modLd_addIo hr]
    rfl

end

/-- Every record that attaches does so whatever `CURLD` is. -/
theorem exec_attached {d : Nat} {s : State} (h : CanAttach d s) (body : List Byte) {i : Instr}
    (hi : i ∈ [Instr.recCompat body, .recIrq body, .recDma body, .recIoport body] ++
      (if s.cfg.memRecords = .storeRaw then [.recMem body, .recMem32 body] else [])) :
    ∃ f, exec i s = .next ((attach f).exec s) := by
  rcases List.mem_append.1 hi with hi | hi
  · simp only [List.mem_cons, List.not_mem_nil, or_false] at hi
    rcases hi with rfl | rfl | rfl | rfl
    · exact ⟨_, exec_recCompat h body⟩
    · exact ⟨_, exec_recIrq h body⟩
    · exact ⟨_, exec_recDma h body⟩
    · exact ⟨_, exec_recIoport h body⟩
  · split at hi
    · rename_i hm
      simp only [List.mem_cons, List.not_mem_nil, or_false] at hi
      rcases hi with rfl | rfl
      · exact ⟨_, exec_recMem_storeRaw h hm body⟩
      · exact ⟨_, exec_recMem32_storeRaw h hm body⟩
    · exact absurd hi List.not_mem_nil

/-- Settles O22: where the logical device is in use each record by its own lemma, elsewhere all of them alike. -/
theorem attachedRecords : Obligations.AttachedRecords := by
  refine ⟨fun d body s h hin => ⟨fun j hj => ?_, fun i hi => ?_⟩, fun body s h hm => ?_⟩
  · have ha : CanAttach d s := canAttach_of_decoding h
    have hcard : s.card = d := card_eq ha.2.1
    have hl : LdThere s d j := (ldThere_iff s d j).2 (hin j hj)
    refine ⟨?_, ?_, ?_, ?_, fun hm => ⟨?_, ?_⟩⟩
    · rw [exec_recCompat ha, recCompat_there hcard hj hl]; rfl
    · rw [exec_recIrq ha, recIrq_there hcard hj hl]; rfl
    · rw [exec_recDma ha, recDma_there hcard hj hl]; rfl
    · rw [exec_recIoport ha, recIoport_there hcard hj hl]; rfl
    · rw [exec_recMem_storeRaw ha hm, storeMemory_there hcard hj hl]
    · rw [exec_recMem32_storeRaw ha hm, storeMemory_there hcard hj hl]
  · obtain ⟨f, hf⟩ := exec_attached (canAttach_of_decoding h) body hi
    rw [hf]
    exact ⟨fun hn => by rw [exec_attach_none hn]; rfl, fun ho => by rw [exec_attach_overflow ho]⟩
  · rw [exec_recUnknown h, exec_recUnknown h]
    exact ⟨exec_recMem_reject h hm body, exec_recMem32_reject h hm body⟩

/-! ## A read before the first write -/

/-- The first precondition of a list that does not hold asks for a register that nothing has written. -/
inductive FirstUnread (s : State) (r : Reg) : List Req → Prop
  | here {rs : List Req} (h : s.isWritten r = false) : FirstUnread s r (.written r :: rs)
  | later {q : Req} {rs : List Req} (hq : q.holds s = true) (h : FirstUnread s r rs) : FirstUnread s r (q :: rs)

section
variable {s : State} {r : Reg} {pre rs : List Req}

theorem guarded_unread (h : FirstUnread s r rs) (f : State → State) :
    guarded rs f s = .fault (.readBeforeWrite r) := by
  induction h with
  | here h => simp [guarded, Req.holds, Req.stop, h]
  | later hq _ ih => simpa [guarded, hq] using ih

/-- Such an operation is a fault (93 U3). -/
theorem operate_unread (h : FirstUnread s r rs) (t : Task) (p : Params → Prog) :
    operate t rs p s = .fault (.readBeforeWrite r) := guarded_unread h _

theorem firstUnread_append (h : FirstUnread s r pre) (rs : List Req) : FirstUnread s r (pre ++ rs) := by
  induction h with
  | here h => exact .here h
  | later hq _ ih => exact .later hq ih

theorem firstUnread_after (hpre : ∀ q ∈ pre, q.holds s = true) (h : FirstUnread s r rs) :
    FirstUnread s r (pre ++ rs) := by
  induction pre with
  | nil => exact h
  | cons q pre ih => exact .later (hpre q List.mem_cons_self) (ih fun x hx => hpre x (List.mem_cons_of_mem q hx))

theorem firstUnread_pnp (h : PnpReady s) (hr : FirstUnread s r rs) : FirstUnread s r (.mainContext :: .key :: rs) :=
  .later (by simp [Req.holds, h.1]) (.later h.2.1 hr)

/-- Its next precondition is that the register was written. -/
theorem operate_pnp_unread (h : PnpReady s) (hr : s.isWritten r = false) (t : Task) (p : Params → Prog) :
    operate t (.mainContext :: .key :: .written r :: rs) p s = .fault (.readBeforeWrite r) :=
  operate_unread (firstUnread_pnp h (.here hr)) t p

end

/-! ### Reading a card's stream -/

section
variable {s : State} {r : Reg}

theorem bodyReqs_of_ne_zero {n : Nat} (h : n ≠ 0) : bodyReqs n = readReqs := if_neg h

theorem bodyReqs_holds (hrdp : s.wr.rdp = true) (hcsum : s.wr.csum = true) (n : Nat) :
    ∀ q ∈ bodyReqs n, q.holds s = true := by
  unfold bodyReqs
  split
  · exact nofun
  · simp [readReqs, Req.holds, State.isWritten, hrdp, hcsum]

theorem recordReqs_eq (k : RecKind) (n : Nat) (s : State) :
    recordReqs k n s =
      .mainContext :: .key :: (bodyReqs n ++ if k.expects n || !s.cfg.lenMismatchFatal then k.reqs else []) := rfl

/-- A record with a body stops on what its reader needs (41 R170). -/
theorem recordReqs_unread (h : PnpReady s) (hr : FirstUnread s r readReqs) (k : RecKind) {n : Nat} (hn : n ≠ 0) :
    FirstUnread s r (recordReqs k n s) := by
  rw [recordReqs_eq, bodyReqs_of_ne_zero hn]
  exact firstUnread_pnp h (firstUnread_append hr _)

/-- A record that reaches its operation stops on what that needs (41 section 2). -/
theorem recordReqs_unread_curld {k : RecKind} {n : Nat} (h : PnpReady s) (hrdp : s.wr.rdp = true)
    (hcsum : s.wr.csum = true) {d : Nat} (hcard : s.dec.card = some d) (hcurld : s.wr.curld = false)
    (hk : k.reqs = [.decoding, .written .curld]) (hreach : (k.expects n || !s.cfg.lenMismatchFatal) = true) :
    FirstUnread s .curld (recordReqs k n s) := by
  rw [recordReqs_eq, if_pos hreach, hk]
  exact firstUnread_pnp h (firstUnread_after (bodyReqs_holds hrdp hcsum n)
    (.later (by simp [Req.holds, hcard]) (.here hcurld)))

theorem memoryRecordReqs_storeRaw (hm : s.cfg.memRecords = .storeRaw) (k : RecKind) (len : Half) :
    memoryRecordReqs k len s = recordReqs k len.toNat s := by simp only [memoryRecordReqs, hm]

/-- The operations that read a byte of a card's stream, given a body length that is not 0. -/
def streamReaders (c : Params) (len : BitVec 3) (len' : Half) : List Instr :=
  [.rdByte, .rdHeader, .rdBody len', .tagAnsi len'] ++
    (if c.memRecords = .storeRaw then [.tagMem len', .tagMem32 len'] else []) ++
    (if len = 0 then [] else [.tagVersion len, .tagLogdev len, .tagCompat len, .tagIrq len, .tagDma len,
      .tagIoport len, .tagEnd len])

theorem toNat_ne_zero {w : Nat} {x : BitVec w} (h : x ≠ 0) : x.toNat ≠ 0 :=
  fun h0 => h (BitVec.eq_of_toNat_eq (by simpa using h0))

theorem streamReaders_unread (h : PnpReady s) (hr : FirstUnread s r readReqs) {len : BitVec 3} {len' : Half}
    (hlen' : len' ≠ 0) : ∀ i ∈ streamReaders s.cfg len len', exec i s = .fault (.readBeforeWrite r) := by
  have hread : FirstUnread s r (.mainContext :: .key :: readReqs) := firstUnread_pnp h hr
  have hn' : len'.toNat ≠ 0 := toNat_ne_zero hlen'
  intro i hi
  rcases List.mem_append.1 hi with hi | hi
  · rcases List.mem_append.1 hi with hi | hi
    · simp only [List.mem_cons, List.not_mem_nil, or_false] at hi
      rcases hi with rfl | rfl | rfl | rfl
      · exact operate_unread hread _ _
      · exact operate_unread hread _ _
      · exact operate_unread (rs := .mainContext :: .key :: bodyReqs len'.toNat)
          ((bodyReqs_of_ne_zero hn').symm ▸ hread) _ _
      · exact operate_unread (recordReqs_unread h hr .ansi hn') _ _
    · split at hi
      · rename_i hm
        simp only [List.mem_cons, List.not_mem_nil, or_false] at hi
        rcases hi with rfl | rfl
        · exact operate_unread (memoryRecordReqs_storeRaw hm .mem len' ▸ recordReqs_unread h hr .mem hn') _ _
        · exact operate_unread (memoryRecordReqs_storeRaw hm .mem32 len' ▸ recordReqs_unread h hr .mem32 hn') _ _
      · exact absurd hi List.not_mem_nil
  · split at hi
    · exact absurd hi List.not_mem_nil
    · rename_i hlen
      have hn : len.toNat ≠ 0 := toNat_ne_zero hlen
      simp only [List.mem_cons, List.not_mem_nil, or_false] at hi
      rcases hi with rfl | rfl | rfl | rfl | rfl | rfl | rfl <;>
        exact operate_unread (recordReqs_unread h hr _ hn) _ _

end

/-! ### The main context -/

section
variable {s : State}

/-- The operations that read the read port first (10 R23). -/
theorem readPort_unread (h : PnpReady s) (hrdp : s.wr.rdp = false) (r : Byte) (f : Bool) :
    ∀ i ∈ [Instr.pnpRd r, .idSample, .idRead, .isoRound f, .pnpRegSerialIsolation, .pnpRegResourceData, .pnpRegStatus],
      exec i s = .fault (.readBeforeWrite .rdp) := by
  intro i hi
  simp only [List.mem_cons, List.not_mem_nil, or_false] at hi
  rcases hi with rfl | rfl | rfl | rfl | rfl | rfl | rfl <;> exact operate_pnp_unread (r := .rdp) h hrdp _ _

theorem attachReqs_unread (h : PnpReady s) {d : Nat} (hcard : s.dec.card = some d) (hcurld : s.wr.curld = false) :
    FirstUnread s .curld attachReqs :=
  firstUnread_pnp h (.later (by simp [Req.holds, hcard]) (.here hcurld))

/-- The records that ask for `CURLD` (10 R27). -/
theorem attached_unread (h : PnpReady s) {d : Nat} (hcard : s.dec.card = some d) (hcurld : s.wr.curld = false)
    (b : List Byte) :
    (∀ i ∈ [Instr.recCompat b, .recIrq b, .recDma b, .recIoport b, .recAnsi b],
      exec i s = .fault (.readBeforeWrite .curld)) ∧
    (s.cfg.memRecords = .storeRaw →
      ∀ i ∈ [Instr.recMem b, .recMem32 b], exec i s = .fault (.readBeforeWrite .curld)) := by
  have hunread : FirstUnread s .curld attachReqs := attachReqs_unread h hcard hcurld
  refine ⟨fun i hi => ?_, fun hm i hi => ?_⟩
  · simp only [List.mem_cons, List.not_mem_nil, or_false] at hi
    rcases hi with rfl | rfl | rfl | rfl | rfl <;> exact operate_unread hunread _ _
  · have hreqs : memoryReqs s = attachReqs := by simp only [memoryReqs, hm]
    simp only [List.mem_cons, List.not_mem_nil, or_false] at hi
    rcases hi with rfl | rfl <;> exact operate_unread (hreqs ▸ hunread) _ _

/-- The headers of those records, where the body can be read and its length does not end the card. -/
theorem headers_unread (h : PnpReady s) {d : Nat} (hcard : s.dec.card = some d) (hcurld : s.wr.curld = false)
    (hcsum : s.wr.csum = true) (hrdp : s.wr.rdp = true) (len : BitVec 3) (len' : Half) :
    (∀ i ∈ [Instr.tagAnsi len'], exec i s = .fault (.readBeforeWrite .curld)) ∧
    (s.cfg.lenMismatchFatal = false →
      ∀ i ∈ [Instr.tagCompat len, .tagIrq len, .tagDma len, .tagIoport len],
        exec i s = .fault (.readBeforeWrite .curld)) ∧
    ∀ i ∈ [Instr.tagCompat 4, .tagIrq 2, .tagIrq 3, .tagDma 2, .tagIoport 7],
      exec i s = .fault (.readBeforeWrite .curld) := by
  have hunread {k : RecKind} {n : Nat} (hk : k.reqs = [.decoding, .written .curld])
      (hreach : (k.expects n || !s.cfg.lenMismatchFatal) = true) : FirstUnread s .curld (recordReqs k n s) :=
    recordReqs_unread_curld h hrdp hcsum hcard hcurld hk hreach
  refine ⟨fun i hi => ?_, fun hfatal i hi => ?_, fun i hi => ?_⟩
  · rw [List.mem_singleton.1 hi]
    exact operate_unread (hunread (k := .ansi) rfl rfl) _ _
  · have hreach (b : Bool) : (b || !s.cfg.lenMismatchFatal) = true := by simp [hfatal]
    simp only [List.mem_cons, List.not_mem_nil, or_false] at hi
    rcases hi with rfl | rfl | rfl | rfl <;> exact operate_unread (hunread rfl (hreach _)) _ _
  · simp only [List.mem_cons, List.not_mem_nil, or_false] at hi
    rcases hi with rfl | rfl | rfl | rfl | rfl <;> exact operate_unread (hunread rfl rfl) _ _

/-- An end tag looks at the sum unless its checksum byte is 0 (41 R180). -/
theorem recEnd_unread (h : PnpReady s) (hcsum : s.wr.csum = false) {b : List Byte} (hb : b.getD 0 0 ≠ 0#8) :
    exec (.recEnd b) s = .fault (.readBeforeWrite .csum) := by
  have hreqs : endReqs b = [.written .csum] := if_neg hb
  exact operate_unread (rs := .mainContext :: .key :: endReqs b)
    (hreqs ▸ firstUnread_pnp h (.here hcsum)) _ _

theorem recEnd_zero (h : PnpReady s) {b : List Byte} (hb : b.getD 0 0 = 0#8) :
    exec (.recEnd b) s = .next (setResult .pass s) := by
  have hreqs : endReqs b = [] := if_pos hb
  have hpass : endPasses b s = true := Bool.or_eq_true_iff.2 (.inl (decide_eq_true hb))
  have hrun : exec (.recEnd b) s = .next ((recEnd b s.cfg).exec s) :=
    operate_pnp (rs := endReqs b) h (by simp [hreqs]) (steady_runRecord .endTag b s.cfg)
  rw [hrun]
  simp [recEnd, hpass]

theorem rdBody_zero (h : PnpReady s) : exec (.rdBody 0) s = .next (setResult (.body []) s) :=
  operate_pnp (rs := []) h (by simp) (steady_readBody .plain s.cfg 0 [])

/-- A body of length 0 of a record that asks for another length, where that is fatal: nothing is read (41 R186). -/
theorem readRecord_fatal {t : Task} {p : Params → Prog} {k : RecKind} (h : PnpReady s)
    (hfatal : s.cfg.lenMismatchFatal = true) (hk : k.expects 0 = false) (hp : p s.cfg = readRecord k 0 s.cfg) :
    operate t (recordReqs k 0 s) p s = .next (raise (.lengthFatal (k.tag s.cfg.num) 0)
      (setResult (.body []) { s with log := s.log ++ [.lengthMismatch (k.tag s.cfg.num) 0] })) := by
  have hreqs : recordReqs k 0 s = [.mainContext, .key] := by simp [recordReqs, bodyReqs, hk, hfatal]
  have hdone : recordDone k [] s.cfg =
      .log (.lengthMismatch (k.tag s.cfg.num) 0) (.fail (.lengthFatal (k.tag s.cfg.num) 0)) := by
    simp [recordDone, hk, hfatal]
  rw [hreqs, operate_pnp h (by simp) (hp ▸ steady_readBody _ _ _ _), hp]
  show Host.Outcome.next ((recordDone k [] s.cfg).exec (setResult (.body []) s)) = _
  rw [hdone]
  rfl

end

theorem neMac_unread {s : State} (h : InitReady s) (hprom : s.wr.prom = false) :
    exec .neMac s = .fault (.readBeforeWrite .prom) :=
  have hreqs : FirstUnread s .prom [.mainContext, .bound, .written .prom] :=
    .later (by simp [Req.holds, h.1]) (.later h.2.1 (.here hprom))
  operate_unread hreqs _ _

/-! ### The handler -/

section
variable {s : State} {r : Reg} {rs : List Req}

theorem rxReqs_holds (h : RxReady s) : ∀ q ∈ rxReqs, q.holds s = true := by
  obtain ⟨hirq, hbound, hlive⟩ := h
  simpa [rxReqs, Req.holds, hirq, hbound] using hlive

theorem operate_rx_unread (h : RxReady s) (hr : FirstUnread s r rs) (t : Task) (p : Params → Prog) :
    operate t (rxReqs ++ rs) p s = .fault (.readBeforeWrite r) :=
  operate_unread (firstUnread_after (rxReqs_holds h) hr) t p

/-- Its first precondition after those of every receive operation is that the register was written. -/
theorem operate_rx_unwritten (h : RxReady s) (hr : s.isWritten r = false) (t : Task) (p : Params → Prog) :
    operate t (rxReqs ++ .written r :: rs) p s = .fault (.readBeforeWrite r) :=
  operate_rx_unread h (.here hr) t p

/-- Nothing splits an operation whose parts stay in the interrupt context (60 R304). -/
theorem quietRun_of_inIrq {p : Prog} (hp : Keeps (fun u => u.ctl.inIrq = true) p) (hs : s.ctl.inIrq = true) :
    QuietRun p s := by
  induction p generalizing s with
  | done => trivial
  | act f k ih =>
    have hf : (f s).2.ctl.inIrq = true := hp.1 s hs
    exact ⟨.inr (quiet_of_inIrq hf), ih _ (hp.2 _) hf⟩

theorem keepsIrq_of_steady {p : Prog} (hp : Steady p) : Keeps (fun u => u.ctl.inIrq = true) p := by
  induction p with
  | done => trivial
  | act f k ih => exact ⟨fun s hs => (hp.1 s).2.1.trans hs, fun v => ih v (hp.2 v)⟩

/-- A receive operation whose preconditions hold runs its parts. -/
theorem operate_rx {t : Task} {p : Params → Prog} (h : RxReady s) (hrs : ∀ q ∈ rs, q.holds s = true)
    (hp : Keeps (fun u => u.ctl.inIrq = true) (p s.cfg)) :
    operate t (rxReqs ++ rs) p s = .next ((p s.cfg).exec s) := by
  unfold operate
  rw [guarded_run, run_eq_exec (quietRun_of_inIrq hp h.1)]
  intro q hq
  exact (List.mem_append.1 hq).elim (rxReqs_holds h q) (hrs q)

end

/-! ### What the handler runs with `FR` unfilled (log 46) -/

section
variable {s : State}

/-- `RX.ADDR` writes `ETYPE` and what there is of `FR`; what it does before leaves all of that alone (44 R265). -/
theorem exec_rxAddrOp (s : State) : ∃ ws t, (rxAddrOp s.cfg).exec s = setAddresses (ethOfWords ws) t ∧
    t.rx = s.rx ∧ t.wr = s.wr ∧ t.q = s.q := by
  have hports {es : List Event} {s t : State} (h : PortsOnly es s t) : t.rx = s.rx ∧ t.wr = s.wr ∧ t.q = s.q := by
    rw [h]
    simp
  obtain ⟨v, t, hrequest, hread⟩ := exec_remoteRead (pageAddress s.nic.nextPkt + Config.hdrLen) (bodyCount s)
    (fifoWords s.cfg (fun ws => .upd (setAddresses (ethOfWords ws)) .done) 7 []) s
  obtain ⟨ws, u, -, hwords, hfifo⟩ := exec_fifoWords s.cfg (fun ws => .upd (setAddresses (ethOfWords ws)) .done) 7 []
    (onPage .p0 t)
  obtain ⟨hrx, hwr, hq⟩ := hports hrequest
  obtain ⟨hrx', hwr', hq'⟩ := hports hwords
  exact ⟨ws, u, hread.trans hfifo, hrx'.trans hrx, hwr'.trans hwr, hq'.trans hq⟩

theorem exec_rxAddr (h : RxReady s) (hnext : s.wr.nextPkt = true) (hhdr : s.wr.hdr = true)
    (hcount : bodyCount s ≠ 0) : exec .rxAddr s = .next ((rxAddrOp s.cfg).exec s) :=
  operate_rx (rs := [.written .nextPkt, .written .hdr, .nonzero (bodyCount s)]) h
    (by simpa [Req.holds, State.isWritten, hnext, hhdr] using hcount) (keepsIrq_of_steady (steady_rxAddrOp s.cfg))

/-- `RX.ALLOC` with a record refused (44 R264). -/
theorem exec_rxAlloc_refused (h : RxReady s) {rest : List Bool} (hanswer : s.bus.allocAnswers = false :: rest) :
    ∃ t, exec .rxAlloc s = .next t ∧ t.log = s.log ++ [.allocFrame] ∧ t.rx = { s.rx with fr := none } ∧
      t.heap = s.heap := by
  have hno : s.bus.allocAnswer.1 = false := by simp [Bus.allocAnswer, hanswer]
  have hreqs : allocReqs s = rxReqs ++ [] := by simp [allocReqs, hno]
  have hnone : (allocate s.cfg.frameRecSize s).1 = none := by simp [allocate, hno]
  have hheap : (allocate s.cfg.frameRecSize s).2.heap = s.heap := by simp [allocate, hno]
  have hrun : exec .rxAlloc s = .next ((rxAllocOp s.cfg).exec s) := by
    show operate (.op .rxAlloc) (allocReqs s) rxAllocOp s = _
    rw [hreqs]
    exact operate_rx h nofun (keepsIrq_of_steady (steady_rxAllocOp s.cfg))
  refine ⟨_, hrun, ?_⟩
  simp [rxAllocOp, rxAlloc, hnone, hheap]

theorem exec_rxDrop (h : RxReady s) (hfr : s.wr.fr = true) (hetype : s.wr.etype = true) :
    exec .rxDrop s = .next ((rxDropOp s.cfg).exec s) :=
  operate_rx (rs := [.written .fr, .written .etype]) h (by simp [Req.holds, State.isWritten, hfr, hetype])
    (keepsIrq_of_steady (steady_rxDropOp s.cfg))

/-- `RX.DROP` gives back what `FR` holds, its record or free values (44 R268; log 46). -/
theorem exec_rxDropOp (c : Params) (s : State) :
    ((rxDropOp c).exec s).rx.fr = none ∧ ((rxDropOp c).exec s).q = s.q ∧
      ((rxDropOp c).exec s).log = s.log ++ [.ethernetI s.rx.etype] := by
  simp [rxDropOp, rxDrop]

/-! `RX.PAYLOAD` guards its enqueue, which is the one part of it that touches the interrupt flags (45 R280). -/

section
variable {P : State → Prop} {k : Prog}

theorem keeps_fifoWords (c : Params) {k : List Half → Prog} (hread : ∀ s p, P s → P (ioRead16 p s).2)
    (hk : ∀ ws, Keeps P (k ws)) (n : Nat) (got : List Half) : Keeps P (fifoWords c k n got) := by
  induction n generalizing got with
  | zero => exact hk _
  | succ n ih => exact keeps_act (fun s => hread s _) fun v => ih _

theorem keepsIrq_enqueue (f : State → List Frame) (hk : Keeps (fun u => u.ctl.inIrq = true) k) :
    Keeps (fun u => u.ctl.inIrq = true) (enqueue f k) :=
  keeps_act (fun _ h => h) fun _ => keeps_upd (fun _ h => h) (keeps_upd (fun _ h => h) hk)

theorem keepsIrq_rxPayloadOp (c : Params) : Keeps (fun u => u.ctl.inIrq = true) (rxPayloadOp c) := by
  refine keeps_frameRec (fun s hs => by simpa using hs) fun r => keeps_fifoWords c (fun _ _ hs => hs) (fun ws => ?_) _ _
  have hrest (bytes : List Byte) : Keeps (fun u => u.ctl.inIrq = true)
      (enqueue (fun _ => completeFrame r bytes) <| .upd (setFr none) .done) :=
    keepsIrq_enqueue _ (keeps_upd (fun _ hs => hs) keeps_done)
  split
  · exact keeps_act (fun _ hs => hs) fun _ => hrest _
  · exact hrest _

end

theorem length_wordsBytes (ws : List Half) : (wordsBytes ws).length = 2 * ws.length := by
  simp [wordsBytes, List.length_flatMap, Nat.mul_comm]

/-- `n` payload bytes are read by port accesses alone (44 R267). -/
theorem exec_readPayload (c : Params) (n : Nat) (k : List Byte → Prog) (s : State) :
    ∃ bytes es t, bytes.length = n ∧ PortsOnly es s t ∧ (readPayload c n k).exec s = (k bytes).exec t := by
  obtain ⟨ws, t, hlen, hports, heq⟩ := exec_fifoWords c
    (fun ws => if n % 2 = 1 then fifoRead8 c fun b => k (wordsBytes ws ++ [b]) else k (wordsBytes ws)) (n / 2) [] s
  have hbytes : (wordsBytes ws).length = 2 * (n / 2) := by rw [length_wordsBytes, hlen]
  unfold readPayload
  rw [heq]
  by_cases hodd : n % 2 = 1
  · refine ⟨wordsBytes ws ++ [(ioRead8 (t.nic.iobase + c.num.neData) t).1], _, _, ?_,
      portsOnly_neRd hports c.num.neData, by simp [hodd, fifoRead8]⟩
    rw [List.length_append, hbytes, List.length_singleton]
    omega
  · exact ⟨wordsBytes ws, _, t, by omega, hports, by simp [hodd]⟩

/-- `RX.PAYLOAD` enqueues one frame, of the record in `FR` where there is one, and leaves `FR = NONE` (44 R267). -/
theorem exec_rxPayloadOp (c : Params) (s : State) :
    ∃ f, ((rxPayloadOp c).exec s).rx.fr = none ∧ ((rxPayloadOp c).exec s).q = s.q ++ [f] ∧
      f.payload.length = f.length.toNat ∧
      ∀ r, s.rx.fr = some r → f.record = r.record ∧ f.buffer = r.buffer ∧ f.length = r.length := by
  obtain ⟨e, -, heth, -, -, hrecord⟩ := readFilledFr_cases s
  obtain ⟨bytes, es, t, hlen, hports, heq⟩ := exec_readPayload c (readFilledFr s).1.length.toNat
    (fun bytes => enqueue (fun _ => completeFrame (readFilledFr s).1 bytes) <| .upd (setFr none) .done)
    (readFilledFr s).2
  have hq : t.q = s.q := by rw [hports]; simp
  have hrun : (rxPayloadOp c).exec s =
      setFr none (setIf t.fl.ifl (appendQ (completeFrame (readFilledFr s).1 bytes) (setIf false t))) := by
    simp only [rxPayloadOp, rxPayload, exec_frameRec]
    rw [heq]
    rfl
  have hqueue : ((rxPayloadOp c).exec s).q = s.q ++
      [⟨(readFilledFr s).1.record, (readFilledFr s).1.buffer, e, (readFilledFr s).1.length, bytes⟩] := by
    simp [hrun, hq, completeFrame, heth]
  refine ⟨_, by simp [hrun], hqueue, hlen, fun r hr => ?_⟩
  simp [hrecord r hr]

theorem exec_rxPayload (h : RxReady s) (hfr : s.isWritten .fr = true) :
    exec .rxPayload s = .next ((rxPayloadOp s.cfg).exec s) :=
  operate_rx (rs := [.written .fr]) h (by simpa [Req.holds] using hfr) (keepsIrq_rxPayloadOp s.cfg)

end

/-! ### An index that names no entry in use (log 18) -/

section
variable {i j k : Nat} {s : State}

theorem modify_getD_eq {α : Type} {xs : List α} {i : Nat} {f : α → α} {d : α} (h : f (xs.getD i d) = xs.getD i d) :
    xs.modify i f = xs := by
  rw [modify_congr_getD (g := id) (d := d) h, List.modify_id]

/-- A write that makes no difference to the entry it is made to changes nothing of the table. -/
theorem dev_modCrd_eq {f : Crd → Crd} (h : f (s.device i).crd = (s.device i).crd) : (modCrd i f s).dev = s.dev := by
  refine modify_getD_eq (d := Device.empty) ?_
  show { s.device i with crd := f (s.device i).crd } = s.device i
  rw [h]

theorem dev_modLd_eq {f : LogicalDevice → LogicalDevice} (h : f (s.ld i j) = s.ld i j) :
    (modLd i j f s).dev = s.dev := by
  refine dev_modCrd_eq ?_
  show { (s.device i).crd with lds := (s.device i).crd.lds.modify j f } = (s.device i).crd
  rw [modify_getD_eq h]

theorem dev_modCrd_unused (h : s.dev.length ≤ i) (f : Crd → Crd) : (modCrd i f s).dev = s.dev :=
  List.modify_eq_self h

theorem dev_modLd_unused (h : ¬ LdThere s i j) (f : LogicalDevice → LogicalDevice) : (modLd i j f s).dev = s.dev := by
  rw [ldThere_iff, Nat.not_lt] at h
  refine dev_modCrd_eq ?_
  rw [List.modify_eq_self h]

theorem dev_modIo_unused (h : ¬ LdThere s i j ∨ (s.ld i j).io.length ≤ k) (f : IoRange → IoRange) :
    (modIo i j k f s).dev = s.dev := by
  rcases h with h | h
  · exact dev_modLd_unused h _
  · refine dev_modLd_eq ?_
    rw [List.modify_eq_self h]

end

/-- No write of `DEV[i].crd.ld[j].io[k]` changes the table `dev`. -/
def DropsIo (dev : List Device) (i j k : Nat) : Prop := ∀ f u, u.dev = dev → (modIo i j k f u).dev = dev

/-- No write of `DEV[i].crd.ld[j]` changes the table `dev`. -/
def DropsLd (dev : List Device) (i j : Nat) : Prop := ∀ f u, u.dev = dev → (modLd i j f u).dev = dev

/-- Every part keeps the table as it is. -/
abbrev KeepsDev (dev : List Device) (p : Prog) : Prop := Keeps (fun u => u.dev = dev) p

section
variable {s u : State} {i j k : Nat}

theorem ldThere_congr (h : u.dev = s.dev) (i j : Nat) : LdThere u i j ↔ LdThere s i j := by
  simp [LdThere, State.device, h]

theorem ld_congr (h : u.dev = s.dev) (i j : Nat) : u.ld i j = s.ld i j := by
  simp [State.ld, State.device, h]

theorem dropsLd_of_unused (h : ¬ LdThere s i j) : DropsLd s.dev i j := fun f _ hu =>
  (dev_modLd_unused (fun hl => h ((ldThere_congr hu i j).1 hl)) f).trans hu

theorem dropsIo_of_unused (h : ¬ LdThere s i j ∨ (s.ld i j).io.length ≤ k) : DropsIo s.dev i j k := fun f _ hu =>
  (dev_modIo_unused (by rwa [ldThere_congr hu, ld_congr hu]) f).trans hu

theorem DropsLd.io {dev : List Device} (h : DropsLd dev i j) (k : Nat) : DropsIo dev i j k := fun _ => h _

end

/-! #### The allocator -/

section
variable {dev : List Device} {p : Prog} {c : Params} {i j k : Nat}

theorem keepsDev_cfgWr {reg v : Byte} (hp : KeepsDev dev p) : KeepsDev dev (.cfgWr reg v p) :=
  keeps_upd (fun _ h => h) (keeps_upd (fun _ h => h) hp)

theorem keepsDev_rd8 {port : Half} {next : Byte → Prog} (hp : ∀ v, KeepsDev dev (next v)) :
    KeepsDev dev (.rd8 port next) := keeps_act (fun _ h => h) fun _ => hp _

theorem keepsDev_raise {f : Failure} (hp : KeepsDev dev p) : KeepsDev dev (.upd (raise f) p) :=
  keeps_upd (fun s h => (raise_dev s f).trans h) hp

theorem keepsDev_deviceLd {next : LogicalDevice → Prog} (hp : ∀ l, KeepsDev dev (next l)) :
    KeepsDev dev (deviceLd i j next) := keeps_ld (fun s h => (readLd_dev s i j).trans h) hp

theorem keepsDev_cfgSelect (hp : KeepsDev dev p) : KeepsDev dev (cfgSelect c i j p) :=
  keeps_act (fun s h => (readDevice_dev s i).trans h) fun _ => keepsDev_cfgWr (keepsDev_cfgWr hp)

section
variable {next : Bool → Prog}

theorem keepsDev_probeSweep (hp : ∀ b, KeepsDev dev (next b)) (ps : List Half) :
    KeepsDev dev (probeSweep next ps) := by
  induction ps with
  | nil => exact hp _
  | cons p ps ih =>
    refine keepsDev_rd8 fun v => ?_
    split
    · exact ih
    · exact hp _

theorem keepsDev_cfgProbe {base : Half} {len : Nat} (hp : ∀ b, KeepsDev dev (next b)) :
    KeepsDev dev (cfgProbe c base len next) := by
  unfold cfgProbe
  induction c.probePasses with
  | zero => exact hp _
  | succ n ih =>
    refine keepsDev_probeSweep (fun clean => ?_) _
    split
    · exact ih
    · exact hp _

theorem keepsDev_ioSearch {d : IoRange} {found : Option Half → Prog} (hp : ∀ r, KeepsDev dev (found r)) (n base : Nat) :
    KeepsDev dev (ioSearch c d found n base) := by
  induction n generalizing base with
  | zero => exact hp _
  | succ n ih =>
    unfold ioSearch
    split
    · refine keepsDev_cfgProbe fun clean => ?_
      split
      · exact keepsDev_cfgWr (keepsDev_cfgWr (hp _))
      · exact ih _
    · exact hp _

theorem keepsDev_cfgIo (hio : DropsIo dev i j k) (hp : ∀ b, KeepsDev dev (next b)) :
    KeepsDev dev (cfgIo c i j k next) := by
  refine keeps_io (fun s h => (readIo_dev s i j k).trans h) fun d => keepsDev_ioSearch (fun r => ?_) _ _
  cases r with
  | none => exact keepsDev_raise (hp _)
  | some b => exact keeps_upd (hio _) (hp _)

theorem keepsDev_cfgIrq (hld : DropsLd dev i j) (hp : ∀ b, KeepsDev dev (next b)) :
    KeepsDev dev (cfgIrq i j next) := by
  refine keepsDev_deviceLd fun l => ?_
  split
  · exact keepsDev_raise (hp _)
  · exact keepsDev_cfgWr (keepsDev_cfgWr (keeps_upd (hld _) (hp _)))

theorem keepsDev_cfgRanges (hld : DropsLd dev i j) (hp : ∀ b, KeepsDev dev (next b)) (ks : List Nat) :
    KeepsDev dev (cfgRanges c i j next ks) := by
  induction ks with
  | nil => exact hp _
  | cons k ks ih =>
    refine keepsDev_cfgIo (hld.io k) fun ok => ?_
    split
    · exact ih
    · exact hp _

end

theorem keepsDev_cfgActivate (hld : DropsLd dev i j) (hp : KeepsDev dev p) : KeepsDev dev (cfgActivate c i j p) :=
  keepsDev_cfgWr <| keepsDev_cfgWr <| keepsDev_cfgWr <| keeps_upd (hld _) hp

theorem keepsDev_cfgDevice (hld : DropsLd dev i j) (hp : KeepsDev dev p) : KeepsDev dev (cfgDevice c i j p) := by
  have hresult (ok : Bool) : KeepsDev dev (deviceResult ok p) := keeps_upd (fun _ h => h) hp
  refine keepsDev_deviceLd fun l => keepsDev_cfgSelect <| keepsDev_cfgRanges hld (fun ok => ?_) _
  split
  · refine keepsDev_cfgIrq hld fun ok => ?_
    split
    · exact keepsDev_cfgActivate hld (hresult true)
    · exact hresult false
  · exact hresult false

end

/-- The instruction runs and leaves the device table as it was. -/
def RunsKeepingDev (s : State) (i : Instr) : Prop := ∃ t, exec i s = .next t ∧ t.dev = s.dev

section
variable {s : State}

/-- An allocator operation whose parts keep the table. -/
theorem operate_keepsDev {t : Task} {p : Params → Prog} (h : PnpReady s) (hp : Steady (p s.cfg))
    (hdev : KeepsDev s.dev (p s.cfg)) : ∃ u, operate t [.mainContext, .key] p s = .next u ∧ u.dev = s.dev :=
  ⟨_, operate_pnp (rs := []) h nofun hp, keeps_exec hdev rfl⟩

/-- `CFG.MATCH` on a logical device that is not in use looks at a free one (42 R200). -/
theorem exec_cfgMatch_unused (h : PnpReady s) {i j : Byte} (hld : ¬ LdThere s i.toNat j.toNat) :
    exec (.cfgMatch i j) s =
      .next (setResult (.bool (cfgMatch (Config.unusedLd s.bus.draws).clip)) (drawn s)) := by
  obtain ⟨hirq, -, hquiet⟩ := h
  have hfree : readLd i.toNat j.toNat s = ((Config.unusedLd s.bus.draws).clip, drawn s) :=
    if_neg fun hl => hld ((ldThere_iff s _ _).2 hl)
  have hrun : exec (.cfgMatch i j) s = .next ((cfgMatchOp i j s.cfg).exec s) :=
    operate_steady (rs := [.mainContext]) (by simp [Req.holds, hirq]) (steady_ld fun _ => steady_answer) hquiet
  rw [hrun]
  simp only [cfgMatchOp, deviceLd, exec_ld, hfree, exec_answer]

theorem runs_cfg_unused (h : PnpReady s) {i j : Byte} (hld : ¬ LdThere s i.toNat j.toNat) :
    ∀ x ∈ [Instr.cfgMatch i j, .cfgSelect i j, .cfgIrq i j, .cfgActivate i j, .cfgDevice i j],
      RunsKeepingDev s x := by
  have hdrop : DropsLd s.dev i.toNat j.toNat := dropsLd_of_unused hld
  intro x hx
  simp only [List.mem_cons, List.not_mem_nil, or_false] at hx
  rcases hx with rfl | rfl | rfl | rfl | rfl
  · exact ⟨_, exec_cfgMatch_unused h hld, rfl⟩
  · exact operate_keepsDev h (steady_cfgSelect _ _ _ steady_done) (keepsDev_cfgSelect keeps_done)
  · exact operate_keepsDev h (steady_cfgIrq _ _ fun _ => steady_done) (keepsDev_cfgIrq hdrop fun _ => keeps_done)
  · exact operate_keepsDev h (steady_cfgActivate _ _ _ steady_done) (keepsDev_cfgActivate hdrop keeps_done)
  · exact operate_keepsDev h (steady_cfgDevice _ _ _ steady_done) (keepsDev_cfgDevice hdrop keeps_done)

theorem runs_cfgIo_unused (h : PnpReady s) {i j k : Byte}
    (hio : ¬ LdThere s i.toNat j.toNat ∨ (s.ld i.toNat j.toNat).io.length ≤ k.toNat) :
    RunsKeepingDev s (.cfgIo i j k) :=
  operate_keepsDev h (steady_cfgIoOp i j k s.cfg)
    (keepsDev_cfgIo (c := s.cfg) (dropsIo_of_unused hio) (next := fun _ => .done) fun _ => keeps_done)

/-! #### The records -/

theorem runs_recVersion_unused {d : Nat} (h : CanAttach d s) (hd : s.dev.length ≤ d) (b : List Byte) :
    RunsKeepingDev s (.recVersion b) := by
  obtain ⟨hready, hcard, -⟩ := h
  have hrun : exec (.recVersion b) s = .next ((recVersion b s.cfg).exec s) :=
    operate_pnp (rs := [.decoding]) hready (by simp [Req.holds, hcard]) (steady_runRecord .version b s.cfg)
  have hdrop (f : Crd → Crd) : (modCrd s.card f s).dev = s.dev := dev_modCrd_unused (by rwa [card_eq hcard]) f
  refine ⟨_, hrun, ?_⟩
  simp only [recVersion, updCrd, exec_upd, exec_done, State.card, modCrd_dec]
  rw [modCrd_modCrd]
  exact hdrop _

theorem runs_recLogdev_unused {d : Nat} (h : CanAttach d s) (hd : s.dev.length ≤ d) (b : List Byte) :
    RunsKeepingDev s (.recLogdev b) := by
  obtain ⟨hready, hcard, -⟩ := h
  have hrun : exec (.recLogdev b) s = .next ((recLogdev b s.cfg).exec s) :=
    operate_pnp (rs := [.decoding]) hready (by simp [Req.holds, hcard]) (steady_runRecord .logdev b s.cfg)
  have hdev : (cardLdcount s).2.dev = s.dev := readDevice_dev s s.card
  have hcard' : (cardLdcount s).2.card = d := by simp [cardLdcount, State.card, hcard]
  refine ⟨_, hrun, ?_⟩
  simp only [recLogdev, Prog.exec]
  split
  · simpa using hdev
  · rw [exec_newLd]
    have hdrop (f : Crd → Crd) : (modCrd (cardLdcount s).2.card f (cardLdcount s).2).dev = s.dev :=
      (dev_modCrd_unused (by rwa [hdev, hcard']) f).trans hdev
    simp only [exec_upd, exec_last, setIrqcfg_dev, setIocfg_dev, setCurld_dev]
    exact hdrop _

theorem runs_recAnsi_unused {d : Nat} (h : CanAttach d s) (hd : s.dev.length ≤ d) (b : List Byte) :
    RunsKeepingDev s (.recAnsi b) := by
  have hcard : s.card = d := card_eq h.2.1
  refine ⟨_, operate_attach h (steady_runRecord .ansi b s.cfg), ?_⟩
  unfold recAnsi
  rw [exec_curld]
  cases s.dec.curld with
  | none =>
    simp only [updCrd, exec_upd, exec_done]
    exact dev_modCrd_unused (hcard ▸ hd) _
  | overflow => rfl
  | index j =>
    simp only [updLd, exec_upd, exec_done]
    exact dev_modLd_unused (fun hl => Nat.not_lt.2 hd (hcard ▸ hl.1)) _

theorem runs_card_unused {d : Nat} (h : CanAttach d s) (hd : s.dev.length ≤ d) (b : List Byte) :
    ∀ x ∈ [Instr.recVersion b, .recLogdev b, .recAnsi b], RunsKeepingDev s x := by
  intro x hx
  simp only [List.mem_cons, List.not_mem_nil, or_false] at hx
  rcases hx with rfl | rfl | rfl
  · exact runs_recVersion_unused h hd b
  · exact runs_recLogdev_unused h hd b
  · exact runs_recAnsi_unused h hd b

section
variable (hunused : ∀ j : Fin 4, s.dec.curld = .index j → DropsLd s.dev s.card j)
include hunused

/-- A record that attaches, whose store is a write of one logical device. -/
theorem dev_attach {full : LogicalDevice → Prop} [DecidablePred full] {f : Failure}
    {store : Fin 4 → LogicalDevice → Prog} (hstore : ∀ j l u, ∃ g, ((store j l).exec u).dev = (modLd u.card j g u).dev) :
    ((attach fun j => cardLd j fun l => if full l then .log f .done else store j l).exec s).dev = s.dev := by
  cases hc : s.dec.curld with
  | none => rw [exec_attach_none hc]; rfl
  | overflow => rw [exec_attach_overflow hc]
  | index j =>
    have hdev : (readLd s.card j s).2.dev = s.dev := readLd_dev s _ _
    have hcard : (readLd s.card j s).2.card = s.card := by simp [State.card]
    rw [exec_attach_index hc]
    simp only [cardLd, exec_ld]
    split
    · exact hdev
    · obtain ⟨g, hg⟩ := hstore j (readLd s.card j s).1 (readLd s.card j s).2
      rw [hg, hcard]
      exact hunused j hc g _ hdev

theorem dev_recCompat (b : List Byte) (c : Params) : ((recCompat b c).exec s).dev = s.dev :=
  dev_attach hunused fun _ _ _ => ⟨_, by rw [exec_fill_countNew rfl]; rfl⟩

theorem dev_storeMemory (kind : MemKind) (b : List Byte) : ((storeMemory kind b).exec s).dev = s.dev :=
  dev_attach hunused fun _ _ _ => ⟨_, by rw [exec_fill_countNew rfl]; rfl⟩

theorem dev_recIrq (b : List Byte) (c : Params) : ((recIrq b c).exec s).dev = s.dev :=
  dev_attach hunused fun _ _ _ => ⟨_, by rw [exec_irqFields]; rfl⟩

theorem dev_recDma (b : List Byte) (c : Params) : ((recDma b c).exec s).dev = s.dev :=
  dev_attach hunused fun _ _ _ => ⟨_, by rw [exec_dmaFields]; rfl⟩

theorem dev_recIoport (b : List Byte) (c : Params) : ((recIoport b c).exec s).dev = s.dev :=
  dev_attach hunused fun _ _ _ => ⟨_, by rw [exec_newIo]; rfl⟩

end

/-- `CURLD` names no logical device in use. -/
theorem dropsLd_curld {d : Nat} (hcard : s.card = d)
    (hunused : s.dev.length ≤ d ∨ ∃ j : Fin 4, s.dec.curld = .index j ∧ (s.device d).crd.lds.length ≤ j) (j : Fin 4)
    (hj : s.dec.curld = .index j) : DropsLd s.dev s.card j := by
  subst hcard
  refine dropsLd_of_unused fun ⟨hi, hl⟩ => ?_
  rcases hunused with hd | ⟨j', hj', hlen⟩
  · omega
  · rw [hj, CurLd.index.injEq] at hj'
    subst hj'
    omega

theorem runs_attached_unused {d : Nat} (h : CanAttach d s) (hunused : s.dev.length ≤ d ∨
      ∃ j : Fin 4, s.dec.curld = .index j ∧ (s.device d).crd.lds.length ≤ j) (b : List Byte) :
    ∀ x ∈ [Instr.recCompat b, .recIrq b, .recDma b, .recIoport b, .recMem b, .recMem32 b],
      RunsKeepingDev s x := by
  have hdrop := dropsLd_curld (card_eq h.2.1) hunused
  have hready : PnpReady s := h.1
  intro x hx
  simp only [List.mem_cons, List.not_mem_nil, or_false] at hx
  rcases hx with rfl | rfl | rfl | rfl | rfl | rfl
  · exact ⟨_, exec_recCompat h b, dev_recCompat hdrop b _⟩
  · exact ⟨_, exec_recIrq h b, dev_recIrq hdrop b _⟩
  · exact ⟨_, exec_recDma h b, dev_recDma hdrop b _⟩
  · exact ⟨_, exec_recIoport h b, dev_recIoport hdrop b _⟩
  · cases hm : s.cfg.memRecords with
    | reject => exact ⟨_, exec_recMem_reject hready hm b, raise_dev _ _⟩
    | storeRaw => exact ⟨_, exec_recMem_storeRaw h hm b, dev_storeMemory hdrop _ b⟩
  · cases hm : s.cfg.memRecords with
    | reject => exact ⟨_, exec_recMem32_reject hready hm b, raise_dev _ _⟩
    | storeRaw => exact ⟨_, exec_recMem32_storeRaw h hm b, dev_storeMemory hdrop _ b⟩

end

/-! ### What each register's first read stops -/

section
variable {s : State}

theorem idDecode_unread (h : PnpReady s) (hid : s.wr.id = false) : exec .idDecode s = .fault (.readBeforeWrite .id) :=
  operate_pnp_unread (rs := []) (p := fun _ => .last idDecode) (r := .id) h hid _

/-- The receive operations that start from `NEXT_PKT` (44 R260 to R262, R265, R270). -/
theorem nextPkt_unread (h : RxReady s) (hnext : s.wr.nextPkt = false) :
    ∀ i ∈ [Instr.rxIrq, .rxPending, .rxHdr, .rxAddr, .rxFrame], exec i s = .fault (.readBeforeWrite .nextPkt) := by
  intro i hi
  simp only [List.mem_cons, List.not_mem_nil, or_false] at hi
  rcases hi with rfl | rfl | rfl | rfl | rfl <;> exact operate_rx_unwritten (r := .nextPkt) h hnext _ _

/-- Those that look at the header (44 R263, R269). -/
theorem hdr_unread (h : RxReady s) (hhdr : s.wr.hdr = false) :
    ∀ i ∈ [Instr.rxRunt, .rxAdvance], exec i s = .fault (.readBeforeWrite .hdr) := by
  intro i hi
  simp only [List.mem_cons, List.not_mem_nil, or_false] at hi
  rcases hi with rfl | rfl <;> exact operate_rx_unwritten (r := .hdr) h hhdr _ _

/-- With a record granted `RX.ALLOC` looks at the header for the payload's size (44 R264). -/
theorem rxAlloc_unread (h : RxReady s) (hhdr : s.wr.hdr = false) {rest : List Bool}
    (hanswer : s.bus.allocAnswers = true :: rest) : exec .rxAlloc s = .fault (.readBeforeWrite .hdr) := by
  have hreqs : allocReqs s = rxReqs ++ [.written .hdr] := by simp [allocReqs, Bus.allocAnswer, hanswer]
  show operate (.op .rxAlloc) (allocReqs s) rxAllocOp s = _
  rw [hreqs]
  exact operate_rx_unwritten (r := .hdr) h hhdr _ _

theorem rxAddr_unread (h : RxReady s) (hnext : s.wr.nextPkt = true) (hhdr : s.wr.hdr = false) :
    exec .rxAddr s = .fault (.readBeforeWrite .hdr) :=
  operate_rx_unread h (rs := [.written .nextPkt, .written .hdr, .nonzero (bodyCount s)]) (.later hnext (.here hhdr)) _ _

theorem fr_unread (h : RxReady s) (hwr : s.wr.fr = false) (hfr : s.rx.fr = none) :
    ∀ i ∈ [Instr.rxPayload, .rxDrop], exec i s = .fault (.readBeforeWrite .fr) := by
  have hunwritten : s.isWritten .fr = false := by simp [State.isWritten, hwr, hfr]
  intro i hi
  simp only [List.mem_cons, List.not_mem_nil, or_false] at hi
  rcases hi with rfl | rfl <;> exact operate_rx_unwritten h hunwritten _ _

theorem rxDrop_unread (h : RxReady s) {f : FrameRec} (hfr : s.rx.fr = some f) (hetype : s.wr.etype = false) :
    exec .rxDrop s = .fault (.readBeforeWrite .etype) :=
  operate_rx_unread h (rs := [.written .fr, .written .etype])
    (.later (by simp [Req.holds, State.isWritten, hfr]) (.here hetype)) _ _

/-- A body of length 0 that is too short, where that is fatal (41 R186). -/
theorem fatal_headers (h : PnpReady s) (hfatal : s.cfg.lenMismatchFatal = true) :
    let fatal (tag : Byte) : State :=
      raise (.lengthFatal tag 0) (setResult (.body []) { s with log := s.log ++ [.lengthMismatch tag 0] })
    exec (.tagVersion 0) s = .next (fatal s.cfg.num.tagVersion) ∧
      exec (.tagLogdev 0) s = .next (fatal s.cfg.num.tagLogdev) ∧
      exec (.tagCompat 0) s = .next (fatal s.cfg.num.tagCompat) ∧
      exec (.tagIrq 0) s = .next (fatal s.cfg.num.tagIrq) ∧
      exec (.tagDma 0) s = .next (fatal s.cfg.num.tagDma) ∧
      exec (.tagIoport 0) s = .next (fatal s.cfg.num.tagIoport) :=
  ⟨readRecord_fatal (k := .version) h hfatal rfl rfl, readRecord_fatal (k := .logdev) h hfatal rfl rfl,
    readRecord_fatal (k := .compat) h hfatal rfl rfl, readRecord_fatal (k := .irq) h hfatal rfl rfl,
    readRecord_fatal (k := .dma) h hfatal rfl rfl, readRecord_fatal (k := .ioport) h hfatal rfl rfl⟩

/-- `RX.ADDR` with no record in `FR` drops what it would put there (log 46). -/
theorem rxAddr_unfilled (h : RxReady s) (hnext : s.wr.nextPkt = true) (hhdr : s.wr.hdr = true) (hfr : s.rx.fr = none)
    (hcount : bodyCount s ≠ 0) : ∃ t, exec .rxAddr s = .next t ∧ t.rx.fr = none ∧ t.wr.fr = s.wr.fr ∧
      t.wr.etype = true ∧ t.q = s.q := by
  obtain ⟨ws, t, heq, hrx, hwr, hq⟩ := exec_rxAddrOp s
  refine ⟨_, (exec_rxAddr h hnext hhdr hcount).trans (congrArg _ heq), ?_⟩
  simp [hrx, hwr, hq, hfr]

end

/-- Settles O53: what the main context reads of a card, what the driver's initialisation and the handler read, and the
indices that name no entry in use. -/
theorem noInventedValues : Obligations.NoInventedValues := by
  refine ⟨fun s h => ?_, fun s h => neMac_unread h, fun s h => ?_, fun s h => ?_⟩
  · exact ⟨fun hrdp => ⟨readPort_unread h hrdp, fun _ _ => streamReaders_unread h (.here hrdp)⟩,
      fun _ _ hrdp hcsum => streamReaders_unread h (.later hrdp (.here hcsum)),
      fun hid => List.forall_mem_singleton.2 (idDecode_unread h hid),
      fun _ hcsum hb => List.forall_mem_singleton.2 (recEnd_unread h hcsum hb),
      fun _ _ => ⟨rdBody_zero h, fun _ => recEnd_zero h⟩,
      fun _ b hcard hcurld => attached_unread h hcard hcurld b,
      fun _ len len' hcard hcurld hcsum hrdp => headers_unread h hcard hcurld hcsum hrdp len len',
      fun _ _ _ => fatal_headers h⟩
  · refine ⟨nextPkt_unread h, fun hhdr => ⟨hdr_unread h hhdr, fun _ =>
        ⟨fun ha => List.forall_mem_singleton.2 (rxAlloc_unread h hhdr ha), exec_rxAlloc_refused h⟩⟩,
      fun hnext hhdr => List.forall_mem_singleton.2 (rxAddr_unread h hnext hhdr),
      rxAddr_unfilled h,
      fun het => List.forall_mem_singleton.2 (operate_rx_unwritten (r := .etype) h het _ _),
      fun hseen => List.forall_mem_singleton.2 (operate_rx_unwritten (r := .isrseen) h hseen _ _),
      fr_unread h,
      fun _ hfr het => List.forall_mem_singleton.2 (rxDrop_unread h hfr het),
      fun _ hwr => ⟨?_, fun het => ⟨_, exec_rxDrop h hwr het, exec_rxDropOp s.cfg s⟩⟩,
      fun r hfr _ => ?_⟩
    · obtain ⟨f, hnone, hq, hlen, -⟩ := exec_rxPayloadOp s.cfg s
      exact ⟨_, f, exec_rxPayload h (by simp [State.isWritten, hwr]), hnone, hq, hlen⟩
    · obtain ⟨f, hnone, hq, hlen, hrecord⟩ := exec_rxPayloadOp s.cfg s
      obtain ⟨hrec, hbuf, hlength⟩ := hrecord r hfr
      exact ⟨_, f, exec_rxPayload h (by simp [State.isWritten, hfr]), hnone, hq, hrec, hbuf, hlength, hlength ▸ hlen⟩
  · refine ⟨fun i j hld => ⟨exec_cfgMatch_unused h hld, runs_cfg_unused h hld⟩, fun i j k => runs_cfgIo_unused h,
      fun d b hcard hcurld => ?_⟩
    have hattach : CanAttach d s := ⟨h, hcard, hcurld⟩
    exact ⟨fun hd => runs_card_unused hattach hd b, fun hunused => runs_attached_unused hattach hunused b⟩

end Sys2Proof.Machine

/-! PROOFS. The heap and the memories of the environment (O55, O58). First what one access, request or lapse of time
can do to them (`EnvStep`) and what each of these keeps; then, program by program, that no part of any operation does
anything else (`MovesEnv`); then from the parts to an instruction and a step. -/

namespace Sys2Proof.Machine

/-! ## What can happen to the heap and the reference agents -/

/-- The part of the state that O55 and O58 speak of: the heap and the reference agents. -/
def env (s : State) : Heap × Option Agents := (s.heap, s.bus.agents)

@[simp] theorem env_eq (s : State) : env s = (s.heap, s.bus.agents) := rfl

/-- One thing that can happen to them: an access of time passes, a port is read or written, a buffer is allocated or
released (20 R71, R75, R83). -/
inductive EnvStep : Heap × Option Agents → Heap × Option Agents → Prop
  | tick (m : Numbers) (h : Heap) (g : Agents) : EnvStep (h, some g) (h, some (g.tick m))
  | read8 (m : Numbers) (free port : Half) (h : Heap) (g : Agents) :
    EnvStep (h, some g) (h, some (g.read8 m free port).2)
  | read16 (m : Numbers) (free port : Half) (h : Heap) (g : Agents) :
    EnvStep (h, some g) (h, some (g.read16 m free port).2)
  | write8 (m : Numbers) (port : Half) (v : Byte) (h : Heap) (g : Agents) :
    EnvStep (h, some g) (h, some (g.write8 m port v))
  | allocate (size : Nat) (h : Heap) (g : Option Agents) :
    EnvStep (h, g) (⟨(h.next, size) :: h.live, h.next + 1⟩, g)
  | release (handle : Nat) (h : Heap) (g : Option Agents) :
    EnvStep (h, g) ({ h with live := h.live.filter fun p => decide (p.1 ≠ handle) }, g)

/-- Any number of these one after another. -/
abbrev EnvMoves : Heap × Option Agents → Heap × Option Agents → Prop := Relation.ReflTransGen EnvStep

/-! ## The reference NICs: only a frame from the wire is stored (20 R74, 95 section 2.2) -/

theorem fifo16_mem (m : Numbers) (free : Half) (n : Nic) : (n.fifo16 m free).2.mem = n.mem := by
  unfold Nic.fifo16
  split <;> rfl

theorem fifo8_mem (m : Numbers) (free : Half) (n : Nic) : (n.fifo8 m free).2.mem = n.mem := by
  unfold Nic.fifo8
  split <;> rfl

theorem nic_read8_mem (m : Numbers) (free : Half) (off : Nat) (n : Nic) : (n.read8 m free off).2.mem = n.mem := by
  simp only [Nic.read8, apply_ite fun r : Byte × Nic => r.2.mem, fifo8_mem, ite_self]

theorem nic_read16_mem (m : Numbers) (free : Half) (off : Nat) (n : Nic) : (n.read16 m free off).2.mem = n.mem := by
  unfold Nic.read16
  split
  · exact fifo16_mem m free n
  · rfl

/-- A register write stores nothing, the data port's least of all (log 29). -/
theorem nic_write8_mem (m : Numbers) (off : Nat) (v : Byte) (n : Nic) : (n.write8 m off v).mem = n.mem := by
  simp only [Nic.write8, Nic.command, apply_ite Nic.mem, ite_self]

theorem nic_receive_wf (m : Numbers) (w : WireFrame) (n : Nic) (h : Memory.wf n.mem = true) :
    Memory.wf (n.receive m w).mem = true := by
  cases w with
  | receive f crc => exact ringStore_wf n _ _ h
  | receiveRaw h0 h1 h2 h3 => exact ringStore_wf n _ _ h

/-- An access that leaves the memory of the NIC it reaches alone leaves that of every NIC alone. -/
theorem nicsAt_mem {α : Type} {m : Numbers} {cards : List Card} {port : Half} {f : Nat → Nic → α × Nic}
    (hf : ∀ off n, (f off n).2.mem = n.mem) {ns : List Nic} {r : α × List Nic} (h : nicsAt m cards port f ns = some r) :
    r.2.map Nic.mem = ns.map Nic.mem := by
  induction ns generalizing r with
  | nil => exact nomatch h
  | cons n ns ih =>
    unfold nicsAt at h
    split at h
    · cases h
      exact congrArg (· :: ns.map Nic.mem) (hf _ n)
    · split at h
      · cases h
        exact congrArg (n.mem :: ·) (ih ‹_›)
      · exact nomatch h

/-! ## The reference cards: a register write keeps the canonical form -/

theorem onAddress_regs (v : Byte) (c : Card) : (c.onAddress v).regs = c.regs := by
  unfold Card.onAddress
  split
  · simp only [apply_ite Card.regs, ite_self]
  · rfl

/-- A write of the data port writes one register at most. -/
theorem onData_regs (m : Numbers) (addr v : Byte) (c : Card) :
    (c.onData m addr v).regs = c.regs ∨ ∃ key, (c.onData m addr v).regs = Memory.write c.regs key v := by
  unfold Card.onData
  split
  · exact .inl rfl
  · split
    · exact .inl (by simp only [apply_ite Card.regs, ite_self])
    · split
      · exact .inl rfl
      · split
        · exact .inl (by simp only [apply_ite Card.regs, ite_self])
        · split
          · split
            · exact .inl rfl
            · exact .inr ⟨_, rfl⟩
          · exact .inl rfl

theorem afterSample_regs (driven : Bool) (c : Card) : (c.afterSample driven).regs = c.regs := by
  simp only [Card.afterSample, apply_ite Card.regs, ite_self]

/-- A read moves the cards' positions and leaves their registers alone. -/
theorem cardsRead_regs (m : Numbers) (addr : Option Byte) (cs : List Card) :
    (cardsRead m addr cs).2.map Card.regs = cs.map Card.regs := by
  unfold cardsRead
  split
  · simp [afterSample_regs]
  · split
    · rfl
    · split
      · rw [List.map_map]
        exact List.map_congr_left fun c _ => by simp only [Function.comp, apply_ite Card.regs, ite_self]
      · rfl

/-! ## The agents together -/

/-- The memories of the NICs. -/
def Agents.memories (g : Agents) : List (List Host.Cell) := g.nics.map Nic.mem

/-- No access stores to a NIC's memory or puts a frame on the wire. -/
theorem read8_memories_wire (m : Numbers) (free port : Half) (g : Agents) :
    (g.read8 m free port).2.memories = g.memories ∧ (g.read8 m free port).2.wire = g.wire := by
  unfold Agents.read8
  split
  · exact ⟨rfl, rfl⟩
  · split
    · exact ⟨nicsAt_mem (nic_read8_mem m free) ‹_›, rfl⟩
    · exact ⟨rfl, rfl⟩

theorem read16_memories_wire (m : Numbers) (free port : Half) (g : Agents) :
    (g.read16 m free port).2.memories = g.memories ∧ (g.read16 m free port).2.wire = g.wire := by
  unfold Agents.read16
  split
  · exact ⟨nicsAt_mem (nic_read16_mem m free) ‹_›, rfl⟩
  · exact ⟨rfl, rfl⟩

theorem write8_memories_wire (m : Numbers) (port : Half) (v : Byte) (g : Agents) :
    (g.write8 m port v).memories = g.memories ∧ (g.write8 m port v).wire = g.wire := by
  unfold Agents.write8
  split
  · exact ⟨rfl, rfl⟩
  · split
    · split <;> exact ⟨rfl, rfl⟩
    · split
      · exact ⟨nicsAt_mem (fun off n => nic_write8_mem m off v n) ‹_›, rfl⟩
      · exact ⟨rfl, rfl⟩

/-- With no frame on its way, an access of time changes nothing. -/
theorem tick_of_quiet (m : Numbers) {g : Agents} (h : g.wire = []) : g.tick m = g := by
  unfold Agents.tick
  simp [h]

/-- Every byte memory of the agents is in canonical form: `MemoryInv` of the agents alone. -/
def AgentsInv (g : Agents) : Prop :=
  (∀ x ∈ g.memories, Memory.wf x = true) ∧ ∀ x ∈ g.cards.map Card.regs, Memory.wf x = true

theorem memoryInv_iff (s : State) : MemoryInv s ↔ ∀ g, s.bus.agents = some g → AgentsInv g := by
  simp [MemoryInv, AgentsInv, Agents.memories]

/-- A frame that arrives is stored with its canonical form kept. -/
theorem agentsInv_tick (m : Numbers) {g : Agents} (h : AgentsInv g) : AgentsInv (g.tick m) := by
  obtain ⟨hnics, hcards⟩ := h
  have hmem : ∀ n ∈ g.nics, Memory.wf n.mem = true := fun n hn => hnics _ (List.mem_map_of_mem hn)
  unfold Agents.tick
  split
  · exact ⟨hnics, hcards⟩
  · exact ⟨List.forall_mem_map.2 (forall_mem_modify hmem (nic_receive_wf m _) _), hcards⟩
  · exact ⟨hnics, hcards⟩

theorem read8_regs (m : Numbers) (free port : Half) (g : Agents) :
    (g.read8 m free port).2.cards.map Card.regs = g.cards.map Card.regs := by
  unfold Agents.read8
  split
  · exact cardsRead_regs m g.addr g.cards
  · split <;> rfl

theorem read16_cards (m : Numbers) (free port : Half) (g : Agents) : (g.read16 m free port).2.cards = g.cards := by
  unfold Agents.read16
  split <;> rfl

theorem write8_regs_wf (m : Numbers) (port : Half) (v : Byte) {g : Agents}
    (h : ∀ x ∈ g.cards.map Card.regs, Memory.wf x = true) :
    ∀ x ∈ (g.write8 m port v).cards.map Card.regs, Memory.wf x = true := by
  have hcard : ∀ c ∈ g.cards, Memory.wf c.regs = true := List.forall_mem_map.1 h
  have hdata : ∀ a, ∀ c ∈ g.cards, Memory.wf (c.onData m a v).regs = true := fun a c hc => by
    rcases onData_regs m a v c with e | ⟨key, e⟩ <;> rw [e]
    · exact hcard c hc
    · exact memory_write_wf key v (hcard c hc)
  unfold Agents.write8
  split
  · simpa [onAddress_regs] using hcard
  · split
    · split
      · exact h
      · simpa using hdata _
    · split <;> exact h

/-! ## What each of these keeps -/

/-- The heap's handles and the agents' memories as O58 has them. -/
def EnvInv (e : Heap × Option Agents) : Prop :=
  ((∀ p ∈ e.1.live, p.1 < e.1.next) ∧ (e.1.live.map Prod.fst).Nodup) ∧ ∀ g, e.2 = some g → AgentsInv g

theorem envInv_env (s : State) : EnvInv (env s) ↔ HeapInv s ∧ MemoryInv s :=
  and_congr_right fun _ => (memoryInv_iff s).symm

/-- An allocation's handle is older than the next one and no live one's. -/
theorem envInv_allocate (size : Nat) {h : Heap} {g : Option Agents} (hinv : EnvInv (h, g)) :
    EnvInv (⟨(h.next, size) :: h.live, h.next + 1⟩, g) := by
  obtain ⟨⟨hold, hnodup⟩, hagents⟩ := hinv
  have hnew : h.next ∉ h.live.map Prod.fst := fun hmem => by
    obtain ⟨p, hp, hfst⟩ := List.mem_map.1 hmem
    exact absurd (hfst ▸ hold p hp) (Nat.lt_irrefl _)
  exact ⟨⟨List.forall_mem_cons.2 ⟨Nat.lt_succ_self _, fun p hp => Nat.lt_succ_of_lt (hold p hp)⟩,
    List.nodup_cons.2 ⟨hnew, hnodup⟩⟩, hagents⟩

theorem envInv_release (handle : Nat) {h : Heap} {g : Option Agents} (hinv : EnvInv (h, g)) :
    EnvInv ({ h with live := h.live.filter fun p => decide (p.1 ≠ handle) }, g) := by
  obtain ⟨⟨hold, hnodup⟩, hagents⟩ := hinv
  exact ⟨⟨fun p hp => hold p (List.mem_of_mem_filter hp), hnodup.sublist (List.filter_sublist.map Prod.fst)⟩, hagents⟩

/-- What changes only the agents keeps what it keeps of them. -/
theorem envInv_agents {h : Heap} {g g' : Agents} (hg : AgentsInv g → AgentsInv g') (hinv : EnvInv (h, some g)) :
    EnvInv (h, some g') :=
  ⟨hinv.1, fun _ e => Option.some.inj e ▸ hg (hinv.2 g rfl)⟩

theorem envInv_step {e e' : Heap × Option Agents} (h : EnvStep e e') (hinv : EnvInv e) : EnvInv e' := by
  cases h with
  | tick m h g => exact envInv_agents (agentsInv_tick m) hinv
  | read8 m free port h g =>
    refine envInv_agents (fun hg => ?_) hinv
    rw [AgentsInv, (read8_memories_wire m free port g).1, read8_regs]
    exact hg
  | read16 m free port h g =>
    refine envInv_agents (fun hg => ?_) hinv
    rw [AgentsInv, (read16_memories_wire m free port g).1, read16_cards]
    exact hg
  | write8 m port v h g =>
    refine envInv_agents (fun ⟨hnics, hcards⟩ => ?_) hinv
    rw [AgentsInv, (write8_memories_wire m port v g).1]
    exact ⟨hnics, write8_regs_wf m port v hcards⟩
  | allocate size h g => exact envInv_allocate size hinv
  | release handle h g => exact envInv_release handle hinv

theorem envInv_moves {e e' : Heap × Option Agents} (h : EnvMoves e e') (hinv : EnvInv e) : EnvInv e' := by
  induction h with
  | refl => exact hinv
  | tail _ hstep ih => exact envInv_step hstep ih

/-- No frame is on its way, and the NICs' memories are `mems` (none: there are no agents). -/
def QuietMemories (mems : Option (List (List Host.Cell))) (e : Heap × Option Agents) : Prop :=
  (∀ g, e.2 = some g → g.wire = []) ∧ e.2.map Agents.memories = mems

theorem quietMemories_env (s : State) :
    QuietMemories (s.bus.agents.map Agents.memories) (env s) ↔ QuietWire s := and_iff_left rfl

theorem quietMemories_agents {mems : Option (List (List Host.Cell))} {h : Heap} {g g' : Agents}
    (hg : g'.memories = g.memories ∧ g'.wire = g.wire) (hq : QuietMemories mems (h, some g)) :
    QuietMemories mems (h, some g') := by
  obtain ⟨hwire, hmems⟩ := hq
  refine ⟨fun _ e => Option.some.inj e ▸ hg.2.trans (hwire g rfl), ?_⟩
  rw [← hmems]
  exact congrArg some hg.1

theorem quietMemories_step {mems : Option (List (List Host.Cell))} {e e' : Heap × Option Agents} (h : EnvStep e e')
    (hq : QuietMemories mems e) : QuietMemories mems e' := by
  cases h with
  | tick m h g => rwa [tick_of_quiet m (hq.1 g rfl)]
  | read8 m free port h g => exact quietMemories_agents (read8_memories_wire m free port g) hq
  | read16 m free port h g => exact quietMemories_agents (read16_memories_wire m free port g) hq
  | write8 m port v h g => exact quietMemories_agents (write8_memories_wire m port v g) hq
  | allocate size h g => exact hq
  | release handle h g => exact hq

theorem quietMemories_moves {mems : Option (List (List Host.Cell))} {e e' : Heap × Option Agents} (h : EnvMoves e e')
    (hq : QuietMemories mems e) : QuietMemories mems e' := by
  induction h with
  | refl => exact hq
  | tail _ hstep ih => exact quietMemories_step hstep ih

/-- A card address reads as it does in the memories of the NICs. -/
theorem cardByte_eq (s : State) (n a : Nat) :
    cardByte s n a =
      (((s.bus.agents.map Agents.memories).bind (·[n]?)).map (Memory.read · a)).getD Memory.unlisted := by
  unfold cardByte
  split
  · simp [*]
  · split <;> simp [*, Agents.memories]

theorem cardByte_congr {s t : State} (h : t.bus.agents.map Agents.memories = s.bus.agents.map Agents.memories)
    (n a : Nat) : cardByte t n a = cardByte s n a := by rw [cardByte_eq, cardByte_eq, h]

/-! ## Accesses, requests and boundaries -/

/-- The answer to a read: the agents see an access of time pass and then, unless the answer is dictated, the read. -/
theorem answer_moves (m : Numbers) {f : Half → Agents → Half × Agents}
    (hf : ∀ free h g, EnvStep (h, some g) (h, some (f free g).2)) (b : Bus) (h : Heap) :
    EnvMoves (h, b.agents) (h, (b.answer m f).2.agents) := by
  unfold Bus.answer
  cases hb : b.agents with
  | none => cases b.answers <;> simpa [hb] using .refl
  | some g =>
    have htick : EnvStep (h, some g) (h, some (g.tick m)) := .tick m h g
    cases b.answers with
    | nil => exact (Relation.ReflTransGen.single htick).tail (hf _ _ _)
    | cons v rest => exact .single htick

@[simp] theorem ioRead8_moves (port : Half) (s : State) :
    EnvMoves (s.heap, s.bus.agents) (s.heap, (ioRead8 port s).2.bus.agents) :=
  answer_moves s.cfg.num (fun free h g => .read8 s.cfg.num free port h g) s.bus s.heap

@[simp] theorem ioRead16_moves (port : Half) (s : State) :
    EnvMoves (s.heap, s.bus.agents) (s.heap, (ioRead16 port s).2.bus.agents) :=
  answer_moves s.cfg.num (fun free h g => .read16 s.cfg.num free port h g) s.bus s.heap

@[simp] theorem ioWrite8_moves (port : Half) (v : Byte) (s : State) :
    EnvMoves (s.heap, s.bus.agents) (s.heap, (ioWrite8 port v s).bus.agents) := by
  show EnvMoves (s.heap, s.bus.agents) (s.heap, s.bus.agents.map _)
  cases s.bus.agents with
  | none => exact .refl
  | some g => exact (Relation.ReflTransGen.single (.tick s.cfg.num s.heap g)).tail (.write8 _ _ _ _ _)

theorem allocAnswer_agents (b : Bus) : b.allocAnswer.2.agents = b.agents := by
  unfold Bus.allocAnswer
  split
  · rfl
  · split <;> rfl

theorem allocate_moves (size : Nat) (s : State) : EnvMoves (env s) (env (allocate size s).2) := by
  have hagents : (allocate size s).2.bus.agents = s.bus.agents := by
    unfold allocate
    dsimp only
    split <;> exact allocAnswer_agents s.bus
  rcases allocate_cases size s with ⟨-, hheap⟩ | ⟨-, hheap⟩ <;> rw [env, env, hheap, hagents]
  exact .single (.allocate _ _ _)

theorem release_moves (handle : Nat) (s : State) : EnvMoves (env s) (env (release handle s)) :=
  .single (.release handle s.heap s.bus.agents)

@[simp] theorem request_moves (e : Event) (s : State) :
    EnvMoves (s.heap, s.bus.agents) (s.heap, (request e s).bus.agents) := .refl

/-- A delivery is a matter of the engine's: the agents are asked for their request, and nothing happens to them. -/
theorem env_deliver (s : State) : env (deliver s) = env s := by
  rcases deliver_cases s with ⟨-, b, e, hb, -⟩ | ⟨b, e, hb, -⟩ <;> rw [e] <;> exact congrArg (s.heap, ·) hb

theorem env_boundary (s : State) : env (boundary s) = env s := by
  rcases boundary_cases s with ⟨-, -, e⟩ | ⟨-, e⟩ <;> rw [e] <;> exact env_deliver _

theorem idle_moves (s : State) : EnvMoves (env s) (env (idle s)) := by
  show EnvMoves (s.heap, s.bus.agents) (s.heap, s.bus.agents.map _)
  cases s.bus.agents with
  | none => exact .refl
  | some g => exact .single (.tick _ _ _)

/-! ## Programs whose parts do no more than that -/

/-- No part of the program does anything else to the heap and the agents. -/
def MovesEnv : Prog → Prop
  | .done => True
  | .act f k => (∀ s, EnvMoves (env s) (env (f s).2)) ∧ ∀ v, MovesEnv (k v)

@[simp] theorem envMoves_refl (e : Heap × Option Agents) : EnvMoves e e := .refl

/-- A free value that is drawn for what the engine reads comes from neither. -/
theorem env_readDevice (i : Nat) (s : State) : env (readDevice i s).2 = env s := by
  unfold readDevice
  split <;> rfl

theorem env_readLd (i j : Nat) (s : State) : env (readLd i j s).2 = env s := by
  unfold readLd
  split <;> rfl

theorem env_readIo (i j k : Nat) (s : State) : env (readIo i j k s).2 = env s := by
  unfold readIo
  split <;> rfl

theorem env_readFr (s : State) : env (readFr s).2 = env s := by
  unfold readFr
  split <;> rfl

theorem env_readFilledFr (s : State) : env (readFilledFr s).2 = env s := by
  unfold readFilledFr
  dsimp only
  split <;> exact env_readFr s

theorem env_bindBase (s : State) : env (bindBase s).2 = env s := by
  unfold bindBase
  split
  · rfl
  · split <;> rfl

theorem envMoves_of_env_eq {s t : State} (h : env t = env s) : EnvMoves (env s) (env t) := h ▸ .refl

section
variable {k yes no : Prog}

@[simp] theorem movesEnv_done : MovesEnv .done := trivial

@[simp] theorem movesEnv_upd {f : State → State} :
    MovesEnv (.upd f k) ↔ (∀ s, EnvMoves (env s) (env (f s))) ∧ MovesEnv k :=
  and_congr_right fun _ => ⟨fun h => h .unit, fun h _ => h⟩

/-- A part that writes registers only. -/
theorem movesEnv_still {f : State → State} (hf : ∀ s, env (f s) = env s) (hk : MovesEnv k) : MovesEnv (.upd f k) :=
  movesEnv_upd.2 ⟨fun s => envMoves_of_env_eq (hf s), hk⟩

@[simp] theorem movesEnv_last {f : State → State} : MovesEnv (.last f) ↔ ∀ s, EnvMoves (env s) (env (f s)) := by
  simp [Prog.last]

@[simp] theorem movesEnv_ite {c : Prop} [Decidable c] :
    MovesEnv (if c then yes else no) ↔ if c then MovesEnv yes else MovesEnv no := by split <;> rfl

/-! Parts that read a register, an entry of the table or `FR`. -/

@[simp] theorem movesEnv_test {f : State → Bool} : MovesEnv (.test f yes no) ↔ MovesEnv yes ∧ MovesEnv no :=
  ⟨fun h => ⟨h.2 (.bool true), h.2 (.bool false)⟩, fun h => ⟨fun _ => .refl, fun v => by
    cases hv : v.toBool <;> simp [hv, h]⟩⟩

@[simp] theorem movesEnv_nat {f : State → Nat} {k : Nat → Prog} : MovesEnv (.nat f k) ↔ ∀ n, MovesEnv (k n) :=
  ⟨fun h n => h.2 (.nat n), fun h => ⟨fun _ => .refl, fun _ => h _⟩⟩

@[simp] theorem movesEnv_reg8 {f : State → Byte} {k : Byte → Prog} : MovesEnv (.reg8 f k) ↔ ∀ v, MovesEnv (k v) :=
  ⟨fun h v => h.2 (.byte v), fun h => ⟨fun _ => .refl, fun _ => h _⟩⟩

@[simp] theorem movesEnv_reg16 {f : State → Half} {k : Half → Prog} : MovesEnv (.reg16 f k) ↔ ∀ v, MovesEnv (k v) :=
  ⟨fun h v => h.2 (.half v), fun h => ⟨fun _ => .refl, fun _ => h _⟩⟩

@[simp] theorem movesEnv_page {k : Option RegPage → Prog} : MovesEnv (.page k) ↔ ∀ q, MovesEnv (k q) :=
  ⟨fun h q => h.2 (.page q), fun h => ⟨fun _ => .refl, fun _ => h _⟩⟩

@[simp] theorem movesEnv_curld {k : CurLd → Prog} : MovesEnv (.curld k) ↔ ∀ c, MovesEnv (k c) :=
  ⟨fun h c => h.2 (.curld c), fun h => ⟨fun _ => .refl, fun _ => h _⟩⟩

@[simp] theorem movesEnv_ld {i j : State → Nat} {k : LogicalDevice → Prog} :
    MovesEnv (.ld i j k) ↔ ∀ l, MovesEnv (k l) := by
  refine ⟨fun h l => h.2 (.ld l), fun h => ⟨fun s => envMoves_of_env_eq (env_readLd _ _ s), fun v => ?_⟩⟩
  cases v with
  | ld l => exact h l
  | _ => trivial

@[simp] theorem movesEnv_io {i j n : Nat} {k : IoRange → Prog} : MovesEnv (.io i j n k) ↔ ∀ d, MovesEnv (k d) := by
  refine ⟨fun h d => h.2 (.io d), fun h => ⟨fun s => envMoves_of_env_eq (env_readIo _ _ _ s), fun v => ?_⟩⟩
  cases v with
  | io d => exact h d
  | _ => trivial

@[simp] theorem movesEnv_frameRec {f : State → FrameRec × State} {k : FrameRec → Prog} :
    MovesEnv (.frameRec f k) ↔ (∀ s, EnvMoves (env s) (env (f s).2)) ∧ ∀ r, MovesEnv (k r) := by
  refine and_congr_right fun _ => ⟨fun h r => h (.frameRec r), fun h v => ?_⟩
  cases v with
  | frameRec r => exact h r
  | _ => trivial

/-! Accesses and results. -/

@[simp] theorem movesEnv_byte {f : State → Byte × State} {k : Byte → Prog} :
    MovesEnv (.byte f k) ↔ (∀ s, EnvMoves (env s) (env (f s).2)) ∧ ∀ v, MovesEnv (k v) :=
  and_congr_right fun _ => ⟨fun h v => h (.byte v), fun h _ => h _⟩

@[simp] theorem movesEnv_half {f : State → Half × State} {k : Half → Prog} :
    MovesEnv (.half f k) ↔ (∀ s, EnvMoves (env s) (env (f s).2)) ∧ ∀ v, MovesEnv (k v) :=
  and_congr_right fun _ => ⟨fun h v => h (.half v), fun h _ => h _⟩

@[simp] theorem movesEnv_rd8 {port : Half} {k : Byte → Prog} : MovesEnv (.rd8 port k) ↔ ∀ v, MovesEnv (k v) := by
  simp [Prog.rd8]

@[simp] theorem movesEnv_wr8 {port : Half} {v : Byte} : MovesEnv (.wr8 port v k) ↔ MovesEnv k := by simp [Prog.wr8]

@[simp] theorem movesEnv_rdPort {k : Byte → Prog} : MovesEnv (.rdPort k) ↔ ∀ v, MovesEnv (k v) := by
  simp [Prog.rdPort]

@[simp] theorem movesEnv_cfgWr {reg v : Byte} : MovesEnv (.cfgWr reg v k) ↔ MovesEnv k := by simp [Prog.cfgWr]

@[simp] theorem movesEnv_cfgRd {reg : Byte} {k : Byte → Prog} : MovesEnv (.cfgRd reg k) ↔ ∀ v, MovesEnv (k v) := by
  simp [Prog.cfgRd]

@[simp] theorem movesEnv_neRd {off : Half} {k : Byte → Prog} : MovesEnv (.neRd off k) ↔ ∀ v, MovesEnv (k v) := by
  simp [Prog.neRd]

@[simp] theorem movesEnv_neWr {off : Half} {v : Byte} : MovesEnv (.neWr off v k) ↔ MovesEnv k := by simp [Prog.neWr]

@[simp] theorem movesEnv_neRd16 {off : Half} {k : Half → Prog} :
    MovesEnv (.neRd16 off k) ↔ ∀ w, MovesEnv (k w) := by simp [Prog.neRd16]

@[simp] theorem movesEnv_log (f : Failure) : MovesEnv (.log f k) ↔ MovesEnv k := by simp [Prog.log]

@[simp] theorem movesEnv_answer (r : Result) : MovesEnv (.answer r) := by simp [Prog.answer]

@[simp] theorem movesEnv_fail (f : Failure) : MovesEnv (.fail f) := by simp [Prog.fail]

theorem movesEnv_push (ts : List Task) : MovesEnv (.last (push ts)) := by simp

theorem movesEnv_lastPhase (p : Phase) : MovesEnv (.last (setPhase p)) := by simp

@[simp] theorem movesEnv_guardIf {body : Prog → Prog} :
    MovesEnv (.guardIf body k) ↔ ∀ b, MovesEnv (body (.upd (setIf b) k)) :=
  ⟨fun h b => h.2 (.bool b), fun h => ⟨fun _ => .refl, fun v => h v.toBool⟩⟩

end

/-! ## Isolation -/

section
variable {k : Prog}

theorem movesEnv_keyPreamble (n : Nat) (hk : MovesEnv k) : MovesEnv (keyPreamble n k) := by
  induction n with
  | zero => exact hk
  | succ n ih => exact movesEnv_wr8.2 ih

theorem movesEnv_keyBytes (n : Nat) (hk : MovesEnv k) : MovesEnv (keyBytes n k) := by
  induction n with
  | zero => exact hk
  | succ n ih => simp [keyBytes, ih]

theorem movesEnv_keySend (c : Params) : MovesEnv (keySend c) :=
  movesEnv_keyPreamble _ (by simp [movesEnv_keyBytes])

theorem movesEnv_idSample {k : Half → Prog} (hk : ∀ w, MovesEnv (k w)) : MovesEnv (idSample k) := by
  simp [idSample, hk]

@[simp] theorem movesEnv_sampleResult (w : Half) : MovesEnv (sampleResult w) := by
  unfold sampleResult
  split <;> simp

@[simp] theorem movesEnv_idStore (n : Nat) (b : Bool) : MovesEnv (idStore n b k) ↔ MovesEnv k := by
  unfold idStore
  split <;> simp

theorem movesEnv_idBits (n : Nat) {k : Option Failure → Prog} (hk : ∀ r, MovesEnv (k r)) :
    MovesEnv (idBits n k) := by
  induction n with
  | zero => exact hk _
  | succ n ih =>
    refine movesEnv_idSample fun w => ?_
    split
    · exact hk _
    · exact (movesEnv_idStore _ _).2 ih

theorem movesEnv_idRead {k : Option Failure → Prog} (hk : ∀ r, MovesEnv (k r)) : MovesEnv (idRead k) :=
  movesEnv_still (fun _ => rfl) <| movesEnv_still (fun _ => rfl) <| movesEnv_still (fun _ => rfl) <|
    movesEnv_idBits _ fun r => by cases r <;> simp [hk]

theorem movesEnv_idReadOp (c : Params) : MovesEnv (idReadOp c) :=
  movesEnv_idRead fun r => by cases r <;> simp [idReadResult]

theorem movesEnv_isoRound (first : Bool) (c : Params) : MovesEnv (isoRound first c) := by
  suffices hwake : ∀ p, MovesEnv p → MovesEnv ((if first then id else wake c 0) p) from
    hwake _ <| movesEnv_wr8.2 <| movesEnv_idRead fun r => by cases r <;> simp [isoStore, setCsn]
  intro p hp
  cases first <;> simp [wake, hp]

theorem movesEnv_enumAt (k : Nat) (c : Params) : MovesEnv (enumAt k c) := by simp [enumAt, wake, setRdp]

theorem movesEnv_enumRounds (k : Nat) (first found : Bool) (c : Params) : MovesEnv (enumRounds k first found c) := by
  simp [enumRounds]

theorem movesEnv_enumAfter (k : Nat) (found : Bool) (c : Params) : MovesEnv (enumAfter k found c) := by
  simp [enumAfter]

end

/-! ## The resource decoder -/

section
variable {k : Prog}

@[simp] theorem movesEnv_rdPoll (c : Params) {ready : Byte → Prog} {wait : Prog} :
    MovesEnv (rdPoll c ready wait) ↔ (∀ b, MovesEnv (ready b)) ∧ MovesEnv wait := by
  refine ⟨fun h => ⟨?_, ?_⟩, fun ⟨hready, hwait⟩ => by simp [rdPoll, hready, hwait]⟩
  · simpa using movesEnv_cfgRd.1 h 1
  · simpa using movesEnv_cfgRd.1 h 0

theorem movesEnv_headerRest (got : List Byte) (c : Params) : MovesEnv (headerRest got c) := by
  unfold headerRest
  split <;> simp [rdHeader, headerForm, headerLow, headerHigh]

theorem movesEnv_rdByte (c : Params) : MovesEnv (rdByte c) := by simp [rdByte]

theorem movesEnv_rdDecode (i : Byte) (c : Params) : MovesEnv (rdDecode i c) := by simp [rdDecode]

@[simp] theorem movesEnv_updCrd (f : Crd → Crd) : MovesEnv (updCrd f k) ↔ MovesEnv k := by simp [updCrd]

@[simp] theorem movesEnv_updLd (j : Nat) (f : LogicalDevice → LogicalDevice) :
    MovesEnv (updLd j f k) ↔ MovesEnv k := by simp [updLd]

@[simp] theorem movesEnv_updIrq (j : Nat) (f : State → IrqRes → IrqRes) :
    MovesEnv (updIrq j f k) ↔ MovesEnv k := by simp [updIrq]

@[simp] theorem movesEnv_fill (e : Entry) : MovesEnv (fill e k) ↔ MovesEnv k := by simp [fill]

@[simp] theorem movesEnv_countNew (j : Nat) : MovesEnv (countNew j k) ↔ MovesEnv k := by simp [countNew]

@[simp] theorem movesEnv_attach {f : Fin 4 → Prog} : MovesEnv (attach f) ↔ ∀ j, MovesEnv (f j) := by
  refine ⟨fun h j => movesEnv_curld.1 h (.index j), fun h => movesEnv_curld.2 fun c => ?_⟩
  cases c with
  | none => simp
  | overflow => trivial
  | index j => exact h j

theorem movesEnv_recLogdev (body : List Byte) (c : Params) : MovesEnv (recLogdev body c) :=
  ⟨fun s => envMoves_of_env_eq (env_readDevice _ s), fun n => by simp [newLd, fillLd]⟩

theorem movesEnv_recAnsi (body : List Byte) (c : Params) : MovesEnv (recAnsi body c) :=
  movesEnv_curld.2 fun x => by cases x <;> simp

theorem movesEnv_recMemory (kind : MemKind) (tag : Byte) (body : List Byte) (c : Params) :
    MovesEnv (recMemory kind tag body c) := by
  unfold recMemory
  split <;> simp [recUnknown, cardLd]

theorem movesEnv_recVersion (body : List Byte) (c : Params) : MovesEnv (recVersion body c) := by simp [recVersion]

theorem movesEnv_recCompat (body : List Byte) (c : Params) : MovesEnv (recCompat body c) := by
  simp [recCompat, cardLd]

theorem movesEnv_recIrq (body : List Byte) (c : Params) : MovesEnv (recIrq body c) := by simp [recIrq, cardLd]

theorem movesEnv_recDma (body : List Byte) (c : Params) : MovesEnv (recDma body c) := by simp [recDma, cardLd]

theorem movesEnv_recIoport (body : List Byte) (c : Params) : MovesEnv (recIoport body c) := by
  simp [recIoport, cardLd, newIo, fillIo]

theorem movesEnv_runRecord (r : RecKind) (body : List Byte) (c : Params) : MovesEnv (runRecord r body c) := by
  cases r with
  | version => exact movesEnv_recVersion body c
  | logdev => exact movesEnv_recLogdev body c
  | compat => exact movesEnv_recCompat body c
  | irq => exact movesEnv_recIrq body c
  | dma => exact movesEnv_recDma body c
  | ioport => exact movesEnv_recIoport body c
  | ansi => exact movesEnv_recAnsi body c
  | endTag => exact movesEnv_last.2 fun _ => .refl
  | mem => exact movesEnv_recMemory _ _ _ _
  | mem32 => exact movesEnv_recMemory _ _ _ _

theorem movesEnv_readBody (u : BodyUse) (c : Params) (n : Nat) (got : List Byte) :
    MovesEnv (readBody u c n got) := by
  induction n generalizing got with
  | zero => cases u <;> simp [readBody, bodyDone, recordDone, movesEnv_runRecord]
  | succ n ih => simp [readBody, ih]

theorem movesEnv_memoryRecord (r : RecKind) (len : Half) (c : Params) : MovesEnv (memoryRecord r len c) := by
  unfold memoryRecord
  split
  · exact movesEnv_readBody _ c _ _
  · exact movesEnv_fail _

end

/-! ## The allocator -/

section
variable {k : Prog}

theorem movesEnv_cfgSelect (c : Params) (i j : Nat) (hk : MovesEnv k) : MovesEnv (cfgSelect c i j k) :=
  movesEnv_byte.2 ⟨fun s => envMoves_of_env_eq (env_readDevice i s), fun csn => by simp [wake, selectLd, hk]⟩

theorem movesEnv_probeSweep {k : Bool → Prog} (hk : ∀ b, MovesEnv (k b)) (ps : List Half) :
    MovesEnv (probeSweep k ps) := by
  induction ps with
  | nil => exact hk _
  | cons p ps ih => simp [probeSweep, ih, hk]

theorem movesEnv_probePasses (ports : List Half) {k : Bool → Prog} (hk : ∀ b, MovesEnv (k b)) (n : Nat) :
    MovesEnv (probePasses ports k n) := by
  induction n with
  | zero => exact hk _
  | succ n ih => exact movesEnv_probeSweep (fun clean => by simp [ih, hk]) _

theorem movesEnv_ioSearch (c : Params) (d : IoRange) {k : Option Half → Prog} (hk : ∀ r, MovesEnv (k r))
    (n base : Nat) : MovesEnv (ioSearch c d k n base) := by
  induction n generalizing base with
  | zero => exact hk _
  | succ n ih =>
    unfold ioSearch
    split
    · exact movesEnv_probePasses _ (fun clean => by simp [ih, hk]) _
    · exact hk _

theorem movesEnv_cfgIo (c : Params) (i j n : Nat) {next : Bool → Prog} (hk : ∀ b, MovesEnv (next b)) :
    MovesEnv (cfgIo c i j n next) :=
  movesEnv_io.2 fun d => movesEnv_ioSearch c d (fun r => by cases r <;> simp [hk]) _ _

theorem movesEnv_cfgIoOp (i j n : Byte) (c : Params) : MovesEnv (cfgIoOp i j n c) := by
  unfold cfgIoOp
  exact movesEnv_cfgIo c _ _ _ fun _ => movesEnv_done

theorem movesEnv_cfgIrq (i j : Nat) {next : Bool → Prog} (hk : ∀ b, MovesEnv (next b)) :
    MovesEnv (cfgIrq i j next) :=
  movesEnv_ld.2 fun l => by split <;> simp [hk]

@[simp] theorem movesEnv_cfgActivate (c : Params) (i j : Nat) : MovesEnv (cfgActivate c i j k) ↔ MovesEnv k := by
  simp [cfgActivate, selectLd]

theorem movesEnv_cfgRanges (c : Params) (i j : Nat) {next : Bool → Prog} (hk : ∀ b, MovesEnv (next b))
    (ns : List Nat) : MovesEnv (cfgRanges c i j next ns) := by
  induction ns with
  | nil => exact hk _
  | cons n ns ih => exact movesEnv_cfgIo c i j n fun ok => by simp [ih, hk]

theorem movesEnv_cfgDevice (c : Params) (i j : Nat) (hk : MovesEnv k) : MovesEnv (cfgDevice c i j k) := by
  refine movesEnv_ld.2 fun l => movesEnv_cfgSelect c i j <| movesEnv_cfgRanges c i j (fun ok => ?_) _
  split
  · exact movesEnv_cfgIrq i j fun ok => by simp [deviceResult, hk]
  · simp [deviceResult, hk]

theorem movesEnv_cfgLds (c : Params) (i : Nat) (hk : MovesEnv k) (js : List Nat) : MovesEnv (cfgLds c i k js) := by
  induction js with
  | nil => exact hk
  | cons j js ih => simp [cfgLds, deviceLd, ih, movesEnv_cfgDevice]

theorem movesEnv_cfgCards (c : Params) (is : List Nat) : MovesEnv (cfgCards c is) := by
  induction is with
  | nil => trivial
  | cons i is ih => simp [cfgCards, ih, movesEnv_cfgLds]

end

/-! ## The NIC -/

section
variable {k : Prog}

@[simp] theorem movesEnv_selectPage (c : Params) (p : RegPage) : MovesEnv (selectPage c p k) ↔ MovesEnv k := by
  simp [selectPage]

@[simp] theorem movesEnv_neCommand (c : Params) (cmd : Byte) : MovesEnv (neCommand c cmd k) ↔ MovesEnv k := by
  simp [neCommand]

@[simp] theorem movesEnv_bnryWrite (c : Params) (v : Byte) : MovesEnv (bnryWrite c v k) ↔ MovesEnv k := by
  simp [bnryWrite]

@[simp] theorem movesEnv_currWrite (c : Params) (v : Byte) : MovesEnv (currWrite c v k) ↔ MovesEnv k := by
  simp [currWrite]

@[simp] theorem movesEnv_rbcrWrite (c : Params) (v : Half) : MovesEnv (rbcrWrite c v k) ↔ MovesEnv k := by
  simp [rbcrWrite]

@[simp] theorem movesEnv_rsarWrite (c : Params) (v : Half) : MovesEnv (rsarWrite c v k) ↔ MovesEnv k := by
  simp [rsarWrite]

@[simp] theorem movesEnv_remoteRead (c : Params) (addr count : Half) :
    MovesEnv (remoteRead c addr count k) ↔ MovesEnv k := by simp [remoteRead]

theorem movesEnv_neReadOp (off : Half) : MovesEnv (neReadOp off) := by simp [neReadOp]

theorem movesEnv_fifoWords (c : Params) {k : List Half → Prog} (hk : ∀ ws, MovesEnv (k ws)) (n : Nat)
    (got : List Half) : MovesEnv (fifoWords c k n got) := by
  induction n generalizing got with
  | zero => exact hk _
  | succ n ih => simp [fifoWords, fifoRead16, ih]

theorem movesEnv_bind {onBound onNone : Prog} (hb : MovesEnv onBound) (hn : MovesEnv onNone) :
    MovesEnv (bind onBound onNone) :=
  ⟨fun s => envMoves_of_env_eq (env_bindBase s), fun v => by
    dsimp only
    split <;> simp [hb, hn]⟩

@[simp] theorem movesEnv_resetPoll (c : Params) : MovesEnv (resetPoll c) :=
  movesEnv_neRd.2 fun v => by split <;> simp

@[simp] theorem movesEnv_startPoll (c : Params) : MovesEnv (startPoll c) :=
  movesEnv_neRd.2 fun v => by split <;> simp

theorem movesEnv_promWords (c : Params) (n : Nat) : MovesEnv (promWords c n) := by
  induction n with
  | zero => trivial
  | succ n ih => simp [promWords, fifoRead16, ih]

theorem movesEnv_parWrites (c : Params) (hk : MovesEnv k) (n : Nat) : MovesEnv (parWrites c k n) := by
  induction n with
  | zero => exact hk
  | succ n ih => simp [parWrites, ih]

theorem movesEnv_neReset (c : Params) : MovesEnv (neReset c) := by simp [neReset]

theorem movesEnv_neBasicinit (c : Params) : MovesEnv (neBasicinit c) := by simp [neBasicinit]

theorem movesEnv_neRing (c : Params) : MovesEnv (neRing c) := by simp [neRing]

theorem movesEnv_neHook (c : Params) : MovesEnv (neHook c) := by simp [neHook]

theorem movesEnv_neLbclr (c : Params) : MovesEnv (neLbclr c) := by simp [neLbclr]

end

/-! ## The queue and the receive pipeline -/

section
variable {k : Prog}

@[simp] theorem movesEnv_enqueue (f : State → List Frame) : MovesEnv (enqueue f k) ↔ MovesEnv k := by simp [enqueue]

@[simp] theorem movesEnv_dequeue : MovesEnv (dequeue k) ↔ MovesEnv k := by simp [dequeue]

theorem movesEnv_qSize (c : Params) : MovesEnv (qSize c) := by simp [qSize]

theorem movesEnv_qWait (c : Params) : MovesEnv (qWait c) := by simp [qWait]

theorem movesEnv_rxIrq (c : Params) : MovesEnv (rxIrq c) := by simp [rxIrq]

theorem movesEnv_rxPending (c : Params) {k : Bool → Prog} (hk : ∀ b, MovesEnv (k b)) : MovesEnv (rxPending c k) := by
  simp [rxPending, currRead, hk]

@[simp] theorem movesEnv_rxHdr (c : Params) : MovesEnv (rxHdr c k) ↔ MovesEnv k := by simp [rxHdr, fifoRead16]

@[simp] theorem movesEnv_rxRunt {yes no : Prog} : MovesEnv (rxRunt yes no) ↔ MovesEnv yes ∧ MovesEnv no := by
  simp [rxRunt, logRunt]

/-- Two requests of the heap, and what is left of the first goes back when the second is refused (44 R264). -/
theorem movesEnv_rxAlloc (c : Params) {k : Bool → Prog} (hk : ∀ b, MovesEnv (k b)) : MovesEnv (rxAlloc c k) := by
  refine ⟨fun s => allocate_moves _ s, fun record => ?_⟩
  dsimp only
  split
  · simp [hk]
  · refine movesEnv_reg16.2 fun size => ⟨fun s => allocate_moves _ s, fun buffer => ?_⟩
    dsimp only
    split
    · exact movesEnv_upd.2 ⟨release_moves _, by simp [hk]⟩
    · simp [hk]

@[simp] theorem movesEnv_rxAddr (c : Params) (hk : MovesEnv k) : MovesEnv (rxAddr c k) := by
  simp [rxAddr, movesEnv_fifoWords, hk]

theorem movesEnv_rxPayload (c : Params) (hk : MovesEnv k) : MovesEnv (rxPayload c k) := by
  refine movesEnv_frameRec.2 ⟨fun s => envMoves_of_env_eq (env_readFilledFr s), fun r =>
    movesEnv_fifoWords c (fun ws => ?_) _ _⟩
  simp [fifoRead8, hk]

theorem movesEnv_rxDrop (hk : MovesEnv k) : MovesEnv (rxDrop k) :=
  movesEnv_frameRec.2 ⟨fun s => envMoves_of_env_eq (env_readFr s), fun r =>
    movesEnv_upd.2 ⟨release_moves _, movesEnv_upd.2 ⟨release_moves _, by simp [hk]⟩⟩⟩

@[simp] theorem movesEnv_rxAdvance (c : Params) : MovesEnv (rxAdvance c k) ↔ MovesEnv k := by simp [rxAdvance]

theorem movesEnv_rxFrame (c : Params) (hk : MovesEnv k) : MovesEnv (rxFrame c k) := by
  have hadvance : MovesEnv (rxAdvance c k) := (movesEnv_rxAdvance c).2 hk
  have haccept : MovesEnv (rxAccept c (rxAdvance c k)) := movesEnv_rxAlloc c fun ok => by
    cases ok <;> simp [hk, movesEnv_rxPayload, movesEnv_rxDrop]
  simp [rxFrame, hk, haccept]

@[simp] theorem movesEnv_rxAck (c : Params) : MovesEnv (rxAck c) := by simp [rxAck]

theorem movesEnv_irqLoop (c : Params) : MovesEnv (irqLoop c) :=
  movesEnv_rxPending c fun b => by simp [movesEnv_rxFrame]

end

/-! ## Every operation -/

/-- No instruction has a part that does anything else to the heap and the agents. -/
theorem movesEnv_allParts (c : Params) (i : Instr) : MovesEnv (allParts c i) := by
  cases i
  case pnpWr | pnpWake | pnpSetcsn | pnpRegConfigControl | pnpRegWake | pnpRegCsn | pnpRegLogicalDevice |
    pnpRegActivate | pnpRegIoRangeCheck | pnpRegIoBaseHi | pnpRegIoBaseLo | pnpRegIrqLevel | pnpRegIrqType =>
    exact movesEnv_cfgWr.2 movesEnv_done
  case pnpSetrdp | pnpRegSetRdData => exact movesEnv_cfgWr.2 (movesEnv_still (fun _ => rfl) movesEnv_done)
  case pnpRd | pnpRegSerialIsolation | pnpRegResourceData | pnpRegStatus =>
    exact movesEnv_cfgRd.2 fun _ => movesEnv_answer _
  case pnpAddr | pnpIsosel => exact movesEnv_wr8.2 movesEnv_done
  case lfsrShift | idDecode | recEnd | rxClassify | qGuard =>
    exact movesEnv_last.2 fun _ => .refl
  case isoEnum | pnpEngine => exact movesEnv_push _
  case recUnknown | smallUnknown0 | smallUnknown6 | smallUnknown7 | smallUnknown9 | smallUnknownA | smallUnknownB |
    smallUnknownC | smallUnknownD | smallUnknownE | largeUnknown => exact movesEnv_fail _
  case sampleOne => exact movesEnv_sampleResult Config.sampleOne
  case sampleZero => exact movesEnv_sampleResult Config.sampleZero
  case sampleNocard v => exact movesEnv_sampleResult v
  case keySend => exact movesEnv_keySend c
  case idSample => exact movesEnv_idSample movesEnv_sampleResult
  case idRead => exact movesEnv_idReadOp c
  case isoRound => exact movesEnv_isoRound _ c
  case rdByte => exact movesEnv_rdByte c
  case rdHeader => exact movesEnv_headerRest [] c
  case rdBody | tagVersion | tagLogdev | tagCompat | tagIrq | tagDma | tagIoport | tagEnd | tagAnsi =>
    exact movesEnv_readBody _ c _ _
  case tagMem | tagMem32 => exact movesEnv_memoryRecord _ _ c
  case rdDecode i => exact movesEnv_rdDecode i c
  case recVersion body => exact movesEnv_recVersion body c
  case recLogdev body => exact movesEnv_recLogdev body c
  case recCompat body => exact movesEnv_recCompat body c
  case recIrq body => exact movesEnv_recIrq body c
  case recDma body => exact movesEnv_recDma body c
  case recIoport body => exact movesEnv_recIoport body c
  case recAnsi body => exact movesEnv_recAnsi body c
  case recMem | recMem32 => exact movesEnv_recMemory _ _ _ c
  case cfgMatch => exact movesEnv_ld.2 fun _ => movesEnv_answer _
  case cfgSelect => exact movesEnv_cfgSelect c _ _ movesEnv_done
  case cfgIo => exact movesEnv_cfgIoOp _ _ _ c
  case cfgProbe => exact movesEnv_probePasses _ (fun _ => movesEnv_answer _) _
  case cfgIrq => exact movesEnv_cfgIrq _ _ fun _ => movesEnv_done
  case cfgActivate => exact (movesEnv_cfgActivate c _ _).2 movesEnv_done
  case cfgDevice => exact movesEnv_cfgDevice c _ _ movesEnv_done
  case cfgAll => exact movesEnv_nat.2 fun _ => movesEnv_cfgCards c _
  case nePage => exact (movesEnv_selectPage c _).2 movesEnv_done
  case neCmd | neDmaStop | cmdStop | cmdStart | cmdRread => exact (movesEnv_neCommand c _).2 movesEnv_done
  case neBnryWr => exact (movesEnv_bnryWrite c _).2 movesEnv_done
  case neCurrWr => exact (movesEnv_currWrite c _).2 movesEnv_done
  case neRsar => exact (movesEnv_rsarWrite c _).2 movesEnv_done
  case neRbcr => exact (movesEnv_rbcrWrite c _).2 movesEnv_done
  case neRdmaRead => exact (movesEnv_remoteRead c _ _).2 movesEnv_done
  case neBnryRd | neCurrRd => exact (movesEnv_selectPage c _).2 (movesEnv_neReadOp _)
  case neRegWr => exact movesEnv_neWr.2 movesEnv_done
  case neRegRd | neFifoRd8 => exact movesEnv_neReadOp _
  case neFifoRd16 => exact movesEnv_neRd16.2 fun _ => movesEnv_answer _
  case neBind => exact movesEnv_bind (movesEnv_answer _) movesEnv_done
  case neInit => exact movesEnv_bind (movesEnv_push _) (movesEnv_lastPhase _)
  case neReset => exact movesEnv_neReset c
  case neBasicinit => exact movesEnv_neBasicinit c
  case neProm => exact (movesEnv_remoteRead c _ _).2 (movesEnv_promWords c _)
  case neMac => exact (movesEnv_selectPage c _).2 (movesEnv_parWrites c (movesEnv_lastPhase _) _)
  case neRing => exact movesEnv_neRing c
  case neStart => exact (movesEnv_neCommand c _).2 (movesEnv_startPoll c)
  case neIrqen => exact (movesEnv_selectPage c _).2 (movesEnv_neWr.2 movesEnv_done)
  case neHook => exact movesEnv_neHook c
  case neLbclr => exact movesEnv_neLbclr c
  case rxIrq => exact movesEnv_rxIrq c
  case rxPending => exact movesEnv_rxPending c fun _ => movesEnv_answer _
  case rxHdr => exact (movesEnv_rxHdr c).2 movesEnv_done
  case rxRunt => exact movesEnv_rxRunt.2 ⟨movesEnv_answer _, movesEnv_answer _⟩
  case rxAlloc => exact movesEnv_rxAlloc c fun _ => movesEnv_done
  case rxAddr => exact movesEnv_rxAddr c movesEnv_done
  case rxPayload => exact movesEnv_rxPayload c movesEnv_done
  case rxDrop => exact movesEnv_rxDrop movesEnv_done
  case rxAdvance => exact (movesEnv_rxAdvance c).2 movesEnv_done
  case rxFrame => exact movesEnv_rxFrame c movesEnv_done
  case rxAck => exact movesEnv_rxAck c
  case qEnq => exact (movesEnv_enqueue _).2 movesEnv_done
  case qDeq => exact movesEnv_dequeue.2 movesEnv_done
  case qSize => exact movesEnv_qSize c
  case qWait => exact movesEnv_qWait c

theorem movesEnv_taskProg (c : Params) (t : Task) : MovesEnv (taskProg c t) := by
  cases t with
  | op i =>
    show MovesEnv (instrProg c i)
    rcases instrProg_eq c i with h | h <;> rw [h]
    · exact movesEnv_allParts c i
    · trivial
  | enumAt k => exact movesEnv_enumAt k c
  | enumRounds k first found => exact movesEnv_enumRounds k first found c
  | enumAfter k found => exact movesEnv_enumAfter k found c
  | headerRest got => exact movesEnv_headerRest got c
  | bodyRest u n got => exact movesEnv_readBody u c n got
  | resetPoll => exact movesEnv_resetPoll c
  | startPoll => exact movesEnv_startPoll c
  | irqLoop => exact movesEnv_irqLoop c
  | _ => trivial

/-! ## From a part to a step -/

/-- Moved from `e` is what every part keeps the heap and the agents. -/
theorem keeps_of_movesEnv {p : Prog} (h : MovesEnv p) (e : Heap × Option Agents) :
    Keeps (fun s => EnvMoves e (env s)) p := by
  induction p with
  | done => trivial
  | act f k ih => exact ⟨fun s hs => hs.trans (h.1 s), fun v => ih v (h.2 v)⟩

/-- The boundaries between the parts leave the heap and the agents alone. -/
theorem run_moves {p : Prog} {s : State} (hp : Keeps (fun u => EnvMoves (env s) (env u)) p) (t : Task)
    (got : List Val) : EnvMoves (env s) (env (p.run t got s)) :=
  keeps_run (P := fun u => EnvMoves (env s) (env u)) (fun u h => env_deliver u ▸ h) (fun _ _ _ h => h) hp got .refl

theorem operate_moves {t : Task} {rs : List Req} {p : Params → Prog} (hp : ∀ c, MovesEnv (p c)) {s u : State}
    (e : operate t rs p s = .next u) : EnvMoves (env s) (env u) := by
  obtain ⟨-, rfl⟩ := guarded_next.1 e
  exact run_moves (keeps_of_movesEnv (hp _) _) t []

/-- All an instruction does to the heap and the agents. -/
theorem exec_moves {i : Instr} {s t : State} (e : exec i s = .next t) : EnvMoves (env s) (env t) := by
  obtain ⟨rs, hexec⟩ := exec_eq_operate i s
  exact operate_moves (fun c => movesEnv_allParts c i) (hexec.symm.trans e)

theorem env_decodeDispatch (s : State) : env (decodeDispatch s) = env s := by
  unfold decodeDispatch
  split <;> rfl

theorem env_decodeNext (s : State) : env (decodeNext s) = env s := by
  unfold decodeNext
  split <;> simp

theorem runTask_moves {t : Task} {s u : State} (e : runTask t s = .next u) : EnvMoves (env s) (env u) := by
  cases t with
  | line l =>
    simp only [runTask] at e
    split at e
    · exact exec_moves e
    · exact nomatch e
  | op i => exact exec_moves e
  | setPhase p => cases e; exact .refl
  | answer r => cases e; exact .refl
  | restoreIf b => cases e; exact .refl
  | enumAt k => exact operate_moves (movesEnv_enumAt k) e
  | enumRounds k first found => exact operate_moves (movesEnv_enumRounds k first found) e
  | enumAfter k found => exact operate_moves (movesEnv_enumAfter k found) e
  | headerRest got => exact operate_moves (movesEnv_headerRest got) e
  | bodyRest v n got => exact operate_moves (fun c => movesEnv_readBody v c n got) e
  | decodeDispatch =>
    obtain ⟨-, rfl⟩ := guarded_next.1 e
    exact envMoves_of_env_eq (env_decodeDispatch s)
  | decodeNext =>
    obtain ⟨-, rfl⟩ := guarded_next.1 e
    exact envMoves_of_env_eq (env_decodeNext s)
  | resetPoll => exact operate_moves movesEnv_resetPoll e
  | startPoll => exact operate_moves movesEnv_startPoll e
  | irqLoop => exact operate_moves movesEnv_irqLoop e
  | waitHalt =>
    obtain ⟨-, rfl⟩ := guarded_next.1 e
    exact .refl
  | resume t got =>
    obtain ⟨-, rfl⟩ := guarded_next.1 e
    exact run_moves (keeps_after (keeps_of_movesEnv (movesEnv_taskProg _ t) _) _) t got

/-- A step idles or runs the first task of the agenda, and a boundary follows. -/
theorem step_cases {s t : State} (e : step s = .next t) :
    t = boundary (idle s) ∨ ∃ task ts u, runTask task (setTodo ts s) = .next u ∧ t = boundary u := by
  unfold step stepOnce afterStep at e
  split at e
  · split at e
    · exact .inl (Host.Outcome.next.inj e).symm
    · split at e
      · exact .inr ⟨_, _, _, ‹_›, (Host.Outcome.next.inj e).symm⟩
      · exact nomatch e
      · exact nomatch e
  · exact nomatch e

/-- All a step does to the heap and the agents. -/
theorem step_moves {s t : State} (e : step s = .next t) : EnvMoves (env s) (env t) := by
  rcases step_cases e with rfl | ⟨task, ts, u, hu, rfl⟩ <;> rw [env_boundary]
  · exact idle_moves s
  · exact runTask_moves (s := setTodo ts s) hu

/-- Settles O58: whatever a step does to the heap and the agents, each access, request or lapse of time in it keeps
both invariants. -/
theorem stepKeepsMemory : Obligations.StepKeepsMemory := fun s t hheap hmem e =>
  (envInv_env t).1 (envInv_moves (step_moves e) ((envInv_env s).2 ⟨hheap, hmem⟩))

/-- Settles O55: with no frame on the wire, none of what an instruction does to the agents stores to a NIC's memory. -/
theorem cardMemoryReadOnly : Obligations.CardMemoryReadOnly := by
  intro i s t e hquiet
  obtain ⟨hwire, hmems⟩ := quietMemories_moves (exec_moves e) ((quietMemories_env s).2 hquiet)
  exact ⟨hwire, cardByte_congr hmems⟩

end Sys2Proof.Machine

/-! PROOFS. The encodings: each operand reader takes off what its operand's encoding put on, and so decoding the
encoding of an instruction gives it back (O2); the words of the spec (O1) and the records that headers select (O3). -/

namespace Sys2Proof

/-! ## Operands (log 1) -/

section
variable (r : List Byte)

@[simp] theorem byteArg_cons (b : Byte) (k : Byte → List Byte → Decoded) : byteArg (b :: r) k = k b r := rfl

@[simp] theorem boolArg_boolByte (b : Bool) (k : Bool → List Byte → Decoded) :
    boolArg (boolByte b :: r) k = k b r := by cases b <;> rfl

@[simp] theorem formArg_formByte (f : RecForm) (k : RecForm → List Byte → Decoded) :
    formArg (formByte f :: r) k = k f r := by cases f <;> rfl

@[simp] theorem formatOf_formatByte (f : Format) : formatOf (formatByte f) = some f := by cases f <;> rfl

@[simp] theorem pair_hi_lo (v : Half) : Machine.pair (Machine.hi v) (Machine.lo v) = v := by
  refine BitVec.eq_of_getLsbD_eq fun i hi => ?_
  rw [Machine.pair, BitVec.getLsbD_append]
  by_cases hlow : i < 8
  · simp [hlow, Machine.lo]
  · simp [hlow, Machine.hi]
    grind

/-- The low byte goes first and comes first. -/
@[simp] theorem halfArg_halfBytes (v : Half) (k : Half → List Byte → Decoded) :
    halfArg (halfBytes v ++ r) k = k v r := congrArg (k · r) (pair_hi_lo v)

theorem toNat_ofNat_half {n : Nat} (h : n < 65536) : (BitVec.ofNat 16 n).toNat = n := Nat.mod_eq_of_lt h

theorem natArg_halfBytes {n : Nat} (h : n < 65536) (k : Nat → List Byte → Decoded) :
    natArg (halfBytes (BitVec.ofNat 16 n) ++ r) k = k n r := by
  rw [natArg, halfArg_halfBytes, toNat_ofNat_half h]

theorem bodyArg_bodyBytes {b : List Byte} (h : b.length < 65536) (k : List Byte → List Byte → Decoded) :
    bodyArg (bodyBytes b ++ r) k = k b r := by
  rw [bodyArg, bodyBytes, List.append_assoc, halfArg_halfBytes, toNat_ofNat_half h]
  simp

/-- An operation whose last operand is a `u16`. -/
theorem halfArg_lastOperand (c : Half → Instr) (v : Half) :
    (halfArg (halfBytes v ++ r) fun v r => .ok (c v, r)) = .ok (c v, r) := halfArg_halfBytes r v _

/-- An operation whose one operand is a byte string. -/
theorem bodyArg_onlyOperand (c : List Byte → Instr) {b : List Byte} (h : bodyFits b = true) :
    (bodyArg (bodyBytes b ++ r) fun b r => .ok (c b, r)) = .ok (c b, r) := bodyArg_bodyBytes r (of_decide_eq_true h) _

@[simp] theorem macArg_macBytes (m : Mac) (k : Mac → List Byte → Decoded) :
    macArg (Machine.macBytes m ++ r) k = k m r := rfl

theorem frameArg_frameBytes {f : Frame} (h : f.wellFormed = true) (k : Frame → List Byte → Decoded) :
    frameArg (frameBytes f ++ r) k = k f r := by
  obtain ⟨record, buffer, ⟨dst, src, ethertype⟩, length, payload⟩ := f
  simp only [Frame.wellFormed, Bool.and_eq_true, decide_eq_true_eq] at h
  obtain ⟨⟨hlength, hrecord⟩, hbuffer⟩ := h
  have hpayload : payload.length < 65536 := hlength ▸ length.isLt
  have hcount : BitVec.ofNat 16 payload.length = length := by rw [hlength, BitVec.ofNat_toNat, BitVec.setWidth_eq]
  simp only [frameArg, frameBytes, List.append_assoc, natArg_halfBytes _ hrecord, natArg_halfBytes _ hbuffer,
    macArg_macBytes, halfArg_halfBytes, bodyArg_bodyBytes _ hpayload, hcount]

/-- Line after line, each with its own format and length. -/
theorem linesArg'_lineBytes {ls : List Line} (h : ∀ l ∈ ls, l.fits = true) (k : List Line → List Byte → Decoded) :
    linesArg' ls.length (ls.flatMap lineBytes ++ r) k = k ls r := by
  induction ls generalizing k with
  | nil => rfl
  | cons l ls ih =>
    have hl : l.bytes.length < 65536 := of_decide_eq_true (h l List.mem_cons_self)
    simp only [List.length_cons, List.flatMap_cons, List.append_assoc, lineBytes, List.cons_append, linesArg',
      byteArg_cons, formatOf_formatByte, bodyArg_bodyBytes _ hl]
    exact ih (fun x hx => h x (List.mem_cons_of_mem l hx)) _

theorem linesArg_linesBytes {ls : List Line} (hn : ls.length < 65536) (h : ∀ l ∈ ls, l.fits = true)
    (k : List Line → List Byte → Decoded) : linesArg (linesBytes ls ++ r) k = k ls r := by
  rw [linesArg, linesBytes, List.append_assoc, halfArg_halfBytes, toNat_ofNat_half hn, linesArg'_lineBytes r h]

end

/-! ## Record headers (30 R108, R109) -/

section
open Machine

/-- The mask of a small header's tag keeps its low four bits. -/
theorem getLsbD_tagMask : ∀ i < 8, (0x0F : Byte).getLsbD i = decide (i < 4) := by decide

/-- Bits [6:3] of a small header are its tag's low four. -/
theorem smallTag_smallHeader (tag : Byte) (len : BitVec 3) : smallTag (smallHeader tag len) = tag &&& 0x0F := by
  refine BitVec.eq_of_getLsbD_eq fun i hi => ?_
  simp only [smallTag, smallHeader, BitVec.getLsbD_and, getLsbD_tagMask i hi]
  grind

theorem smallLen_smallHeader (tag : Byte) (len : BitVec 3) : smallLen (smallHeader tag len) = len := by
  refine BitVec.eq_of_getLsbD_eq fun i hi => ?_
  simp [smallLen, smallHeader]

/-- Only a fifth tag bit would make a small header read as a large one. -/
theorem isLarge_smallHeader (tag : Byte) (len : BitVec 3) : isLarge (smallHeader tag len) = tag.getLsbD 4 := by
  simp [isLarge, smallHeader]

/-! Which bits of a header the two fields of a small one are (30 R108). -/

theorem smallTag_eq (h : Byte) : smallTag h = (h.extractLsb' 3 4).setWidth 8 := by
  refine BitVec.eq_of_getLsbD_eq fun i hi => ?_
  simp only [smallTag, BitVec.getLsbD_and, getLsbD_tagMask i hi]
  grind

theorem smallLen_eq (h : Byte) : smallLen h = ((h.extractLsb' 0 3).setWidth 16).setWidth 3 := by
  refine BitVec.eq_of_getLsbD_eq fun i hi => ?_
  simp [smallLen]

theorem decodeResource_of_small (m : Numbers) {h : Byte} (hs : isLarge h = false) (rest : List Byte) :
    decodeResource m (h :: rest) = .ok (smallRecord m (smallTag h) (smallLen h), rest) := by
  simp [decodeResource, hs]

theorem decodeResource_of_large (m : Numbers) {h : Byte} (hl : isLarge h = true) (rest : List Byte) :
    decodeResource m (h :: rest) = halfArg rest fun len r => .ok (largeRecord m h len, r) := by
  simp [decodeResource, hl]

/-- A header of a four-bit tag selects that tag's record. -/
theorem decodeResource_smallHeader {tag : Byte} (htag : tag &&& 0x0F = tag) (m : Numbers) (len : BitVec 3)
    (rest : List Byte) :
    decodeResource m (smallHeader tag len :: rest) = .ok (smallRecord m tag len, rest) := by
  have hsmall : isLarge (smallHeader tag len) = false := by
    rw [isLarge_smallHeader, ← htag]; simp
  rw [decodeResource_of_small m hsmall, smallTag_smallHeader, smallLen_smallHeader, htag]

theorem decodeResource_largeHeader {tag : Byte} (htag : isLarge tag = true) (m : Numbers) (len : Half)
    (rest : List Byte) :
    decodeResource m (tag :: (halfBytes len ++ rest)) = .ok (largeRecord m tag len, rest) := by
  rw [decodeResource_of_large m htag, halfArg_halfBytes]

/-- A large tag outside the map is unrecognised (30 R121). -/
theorem largeRecord_unknown {m : Numbers} {tag : Byte} (hmem : tag ≠ m.tagMem) (hansi : tag ≠ m.tagAnsi)
    (hmem32 : tag ≠ m.tagMem32) (len : Half) : largeRecord m tag len = .largeUnknown tag len := by
  simp [largeRecord, hmem, hansi, hmem32]

end

/-! ## Samples, card registers and command bytes (30 R101, R105, R122, R124) -/

theorem decodeSample_halfBytes (v : Half) (rest : List Byte) :
    decodeSample (halfBytes v ++ rest) = .ok (sampleInstr v, rest) := halfArg_halfBytes rest v _

theorem sampleInstr_noCard {v : Half} (hone : v ≠ Config.sampleOne) (hzero : v ≠ Config.sampleZero) :
    sampleInstr v = .sampleNocard v := by simp [sampleInstr, hone, hzero]

/-- The eight register pairs stand between the other registers and name their pair in bits [3:1] (30 R122). -/
theorem decodePnp_ioBaseHi (k : BitVec 3) (v : Byte) (rest : List Byte) :
    decodePnp .default ((0x60 + (k.setWidth 8 <<< 1)) :: v :: rest) = .ok (.pnpRegIoBaseHi k v, rest) := by
  cases k with | ofFin i => fin_cases i <;> rfl

theorem decodePnp_ioBaseLo (k : BitVec 3) (v : Byte) (rest : List Byte) :
    decodePnp .default ((0x61 + (k.setWidth 8 <<< 1)) :: v :: rest) = .ok (.pnpRegIoBaseLo k v, rest) := by
  cases k with | ofFin i => fin_cases i <;> rfl

/-- The page bits stand above the command's (30 R124). -/
theorem command_page_bits : ∀ ps : BitVec 2, ∀ cmd ∈ [(0x21 : Byte), 0x22, 0x0A],
    (cmd ||| (ps.setWidth 8 <<< 6)) &&& 0x3F = cmd ∧ ((cmd ||| (ps.setWidth 8 <<< 6)) >>> 6).setWidth 2 = ps := by
  decide

section
open Machine

theorem decodeNe_command {cmd : Byte} {ps : BitVec 2} {row : BitVec 2 → Instr}
    (hrow : (cmd, row) ∈ [((0x21 : Byte), Instr.cmdStop), (0x22, .cmdStart), (0x0A, .cmdRread)])
    (rest : List Byte) :
    decodeNe .default ((cmd ||| (ps.setWidth 8 <<< 6)) :: rest) = .ok (row ps, rest) := by
  have hcmd : cmd ∈ [(0x21 : Byte), 0x22, 0x0A] := List.mem_map_of_mem (f := Prod.fst) hrow
  obtain ⟨hbits, hpage⟩ := command_page_bits ps cmd hcmd
  have hmask : cmdMask .default = 0x3F := rfl
  have hps : Numbers.default.crPs = 6 := rfl
  simp only [decodeNe, byteArg_cons, hmask, hps, hbits, hpage]
  simp only [List.mem_cons, Prod.mk.injEq, List.not_mem_nil, or_false] at hrow
  rcases hrow with ⟨rfl, rfl⟩ | ⟨rfl, rfl⟩ | ⟨rfl, rfl⟩ <;> rfl

end

/-! ## Decoding an encoding -/

/-- Settles O2: an operation of single bytes, a card-register row but for the pairs, by evaluation; every other row by
the lemma on its operand, its header or its register. -/
theorem decodeOfEncode : Obligations.DecodeOfEncode := by
  intro i rest hwf
  cases i
  case keySend | pnpAddr | pnpWr | pnpRd | pnpWake | pnpIsosel | pnpSetcsn | idSample | idRead | idDecode | isoEnum |
    pnpEngine | rdByte | rdHeader | rdDecode | cfgMatch | cfgSelect | cfgIo | cfgIrq | cfgActivate | cfgDevice |
    cfgAll | neCmd | neBnryWr | neCurrWr | neFifoRd16 | neDmaStop | neRegWr | neBnryRd | neCurrRd | neRegRd |
    neFifoRd8 | neBind | neReset | neBasicinit | neProm | neMac | neRing | neStart | neIrqen | neHook | neLbclr |
    neInit | rxIrq | rxPending | rxHdr | rxRunt | rxAlloc | rxAddr | rxClassify | rxPayload | rxDrop | rxAdvance |
    rxFrame | rxAck | qDeq | qSize | qWait => rfl
  case lfsrShift v b => exact boolArg_boolByte rest b fun b r => .ok (.lfsrShift v b, r)
  case isoRound first => exact boolArg_boolByte rest first fun b r => .ok (.isoRound b, r)
  case recUnknown form tag =>
    exact formArg_formByte (tag :: rest) form fun f r => byteArg r fun t r => .ok (.recUnknown f t, r)
  case pnpSetrdp p => exact halfArg_lastOperand rest .pnpSetrdp p
  case rdBody len => exact halfArg_lastOperand rest .rdBody len
  case neRsar addr => exact halfArg_lastOperand rest .neRsar addr
  case neRbcr count => exact halfArg_lastOperand rest .neRbcr count
  case neRdmaRead addr count =>
    exact (halfArg_halfBytes (halfBytes count ++ rest) addr fun a r => halfArg r fun c r =>
      .ok (.neRdmaRead a c, r)).trans (halfArg_lastOperand rest (.neRdmaRead addr) count)
  case cfgProbe base len =>
    exact halfArg_halfBytes (len :: rest) base fun b r => byteArg r fun l r => .ok (.cfgProbe b l, r)
  case nePage p => exact natArg_halfBytes rest (of_decide_eq_true hwf) fun p r => .ok (.nePage p, r)
  case recVersion => exact bodyArg_onlyOperand rest .recVersion hwf
  case recLogdev => exact bodyArg_onlyOperand rest .recLogdev hwf
  case recCompat => exact bodyArg_onlyOperand rest .recCompat hwf
  case recIrq => exact bodyArg_onlyOperand rest .recIrq hwf
  case recDma => exact bodyArg_onlyOperand rest .recDma hwf
  case recIoport => exact bodyArg_onlyOperand rest .recIoport hwf
  case recAnsi => exact bodyArg_onlyOperand rest .recAnsi hwf
  case recEnd => exact bodyArg_onlyOperand rest .recEnd hwf
  case recMem => exact bodyArg_onlyOperand rest .recMem hwf
  case recMem32 => exact bodyArg_onlyOperand rest .recMem32 hwf
  case qGuard body =>
    obtain ⟨hn, hfits⟩ := Bool.and_eq_true_iff.1 hwf
    exact linesArg_linesBytes rest (of_decide_eq_true hn) (List.all_eq_true.1 hfits) fun b r => .ok (.qGuard b, r)
  case qEnq => exact frameArg_frameBytes rest hwf fun f r => .ok (.qEnq f, r)
  case tagVersion | tagLogdev | tagCompat | tagIrq | tagDma | tagIoport | tagEnd | smallUnknown0 | smallUnknown6 |
    smallUnknown7 | smallUnknown9 | smallUnknownA | smallUnknownB | smallUnknownC | smallUnknownD | smallUnknownE =>
    exact decodeResource_smallHeader rfl .default _ rest
  case tagMem len => exact decodeResource_largeHeader (tag := 0x81) rfl .default len rest
  case tagAnsi len => exact decodeResource_largeHeader (tag := 0x82) rfl .default len rest
  case tagMem32 len => exact decodeResource_largeHeader (tag := 0x85) rfl .default len rest
  case largeUnknown tag len =>
    simp only [Instr.wellFormed, Bool.and_eq_true, decide_eq_true_eq] at hwf
    obtain ⟨⟨⟨hlarge, hmem⟩, hansi⟩, hmem32⟩ := hwf
    have hrecord := largeRecord_unknown hmem hansi hmem32 len
    exact (decodeResource_largeHeader hlarge .default len rest).trans (by rw [hrecord])
  case sampleOne | sampleZero => exact decodeSample_halfBytes _ rest
  case sampleNocard v =>
    obtain ⟨hone, hzero⟩ := Bool.and_eq_true_iff.1 hwf
    have hinstr := sampleInstr_noCard (of_decide_eq_true hone) (of_decide_eq_true hzero)
    exact (decodeSample_halfBytes v rest).trans (by rw [hinstr])
  case pnpRegSetRdData | pnpRegSerialIsolation | pnpRegConfigControl | pnpRegWake | pnpRegResourceData | pnpRegStatus |
    pnpRegCsn | pnpRegLogicalDevice | pnpRegActivate | pnpRegIoRangeCheck | pnpRegIrqLevel | pnpRegIrqType => rfl
  case pnpRegIoBaseHi k v => exact decodePnp_ioBaseHi k v rest
  case pnpRegIoBaseLo k v => exact decodePnp_ioBaseLo k v rest
  case cmdStop | cmdStart | cmdRread => exact decodeNe_command (by simp) rest

/-- Settles O1: each word is the encoding of a well-formed instruction. -/
theorem specWordsDecode : Obligations.SpecWordsDecode :=
  ⟨decodeOfEncode .pnpEngine [] rfl, decodeOfEncode (.pnpSetrdp 0x203) [] rfl, decodeOfEncode (.tagIoport 7) [] rfl,
    decodeOfEncode (.tagEnd 1) [] rfl, decodeOfEncode (.tagAnsi 3) [] rfl, decodeOfEncode .sampleOne [] rfl,
    decodeOfEncode .sampleZero [] rfl, decodeOfEncode (.pnpRegIoBaseHi 3 0x02) [] rfl,
    decodeOfEncode (.pnpRegWake 0) [] rfl, decodeOfEncode (.cmdStop 1) [] rfl⟩

/-- Settles O3: which lookup each header form makes, then the lookup. -/
theorem headerSelectsRecord : Obligations.HeaderSelectsRecord := by
  refine ⟨fun m h rest hsmall => ?_, fun m h l0 l1 rest hlarge => ?_, fun len => ?_,
    fun tag len hmem hansi hmem32 => ?_⟩
  · show decodeResource m (h :: rest) = _
    rw [decodeResource_of_small m hsmall, smallTag_eq, smallLen_eq]
    rfl
  · exact decodeResource_of_large m hlarge (l0 :: l1 :: rest)
  · exact ⟨rfl, rfl, rfl, rfl, rfl, rfl, rfl, rfl, rfl, rfl, rfl, rfl, rfl, rfl, rfl, rfl, rfl, rfl, rfl⟩
  · exact largeRecord_unknown hmem hansi hmem32 len

end Sys2Proof

/-! PROOFS. What one step does with a program line (O4), the card-register and sample rows (O11), and the two tests of
the receive pipeline (O41). -/

namespace Sys2Proof.Machine

/-! ## A placed line -/

section
variable {s : State} {t : Task} {ts : List Task}

/-- The agenda of a context that is not halted and has steps of its own is these. -/
theorem agenda_of_todo (hruns : s.ctl.inIrq = true ∨ s.fl.halted = false) (htodo : s.active.todo = t :: ts) :
    s.agenda = t :: ts := by
  unfold State.agenda
  unfold State.active at htodo
  cases hirq : s.ctl.inIrq with
  | true => simpa [hirq] using htodo
  | false =>
    have hhalted : s.fl.halted = false := hruns.resolve_left (by simp [hirq])
    have hmain : s.ctl.main.todo = t :: ts := by simpa [hirq] using htodo
    simp [hhalted, hmain]

/-- A step runs the first of them, the others left. -/
theorem step_of_todo (hok : s.cfg.ok = true) (hruns : s.ctl.inIrq = true ∨ s.fl.halted = false)
    (htodo : s.active.todo = t :: ts) : step s = afterStep (runTask t (setTodo ts s)) := by
  simp [step, stepOnce, hok, agenda_of_todo hruns htodo]

theorem runTask_line {l : Line} {i : Instr} {r : List Byte} (h : decodeAt s.cfg.num l.fmt l.bytes = .ok (i, r)) :
    runTask (.line l) s = exec i s := by simp [runTask, h]

end

theorem setActive_setActive (c d : Ctx) (s : State) :
    State.setActive c (State.setActive d s) = State.setActive c s := by
  cases hirq : s.ctl.inIrq <;> simp [State.setActive, hirq]

theorem setActive_self (s : State) : State.setActive s.active s = s := by
  unfold State.setActive State.active
  split <;> rfl

/-- Taking placed steps off again leaves the state they were placed in. -/
theorem setTodo_push (ts : List Task) (s : State) : setTodo s.active.todo (push ts s) = s := by
  rw [setTodo, push, setActive_setActive, setActive_active]
  exact setActive_self s

/-- The state that a placed line runs in: a halted main context is woken (log 3). -/
def woken (s : State) : State := if s.ctl.inIrq then s else setHalted false s

@[simp] theorem woken_cfg (s : State) : (woken s).cfg = s.cfg := by unfold woken; split <;> rfl

theorem woken_runs (s : State) : (woken s).ctl.inIrq = true ∨ (woken s).fl.halted = false := by
  unfold woken
  split
  · exact .inl ‹_›
  · exact .inr rfl

/-- A step after a line was placed runs the line's instruction. -/
theorem step_placeLine {s : State} {l : Line} {i : Instr} {r : List Byte} (hok : s.cfg.ok = true)
    (hl : decodeAt s.cfg.num l.fmt l.bytes = .ok (i, r)) : step (placeLine l s) = afterStep (exec i (woken s)) := by
  have hplace : placeLine l s = push [.line l] (woken s) := rfl
  have htodo : (push [.line l] (woken s)).active.todo = .line l :: (woken s).active.todo := push_todo _ _
  rw [hplace, step_of_todo (by simpa using hok) (by simpa using woken_runs s) htodo, setTodo_push,
    runTask_line (by simpa using hl)]

theorem decode_of_instr {l : Line} {i : Instr} (h : l.instr = some i) : ∃ r, decode l.fmt l.bytes = .ok (i, r) := by
  unfold Line.instr at h
  split at h
  · rename_i j r hj
    exact ⟨r, by rw [hj, Option.some.inj h]⟩
  · exact nomatch h

/-- Settles O4: the step runs the line, and the host's word is a line placed in front. -/
theorem stepRunsDecoded : Obligations.StepRunsDecoded := by
  refine ⟨fun s l ts i r hok hruns htodo hl => ?_, fun s nbits w i hok hnum hw => ?_⟩
  · rw [step_of_todo hok hruns htodo, runTask_line (by simpa using hl)]
  · obtain ⟨r, hr⟩ := decode_of_instr hw
    exact step_placeLine hok (r := r) (by rw [hnum]; exact hr)

/-! ## Card-register rows -/

section
variable {s : State}

/-- A card-register write whose further preconditions hold makes its pair of accesses (30 R105). -/
theorem operate_cfgWr {t : Task} {rs : List Req} (h : PnpReady s) (hrs : ∀ r ∈ rs, r.holds s = true)
    (reg : Params → Byte) (v : Byte) :
    ∃ u, PortsOnly (cfgPair (reg s.cfg) v) s u ∧
      operate t (.mainContext :: .key :: rs) (fun c => .cfgWr (reg c) v .done) s = .next u := by
  obtain ⟨u, hports, -, hexec⟩ := exec_cfgWr (reg s.cfg) v .done s
  exact ⟨u, hports, (operate_pnp h hrs (steady_cfgWr steady_done)).trans (congrArg _ hexec)⟩

/-- A card-register read makes its pair of accesses, and its value is the result (30 R105). -/
theorem operate_cfgReadOp {t : Task} {p : Half} (h : PortReady p s) (reg : Params → Byte) :
    ∃ v u, PortsOnly (cfgGet p (reg s.cfg) v) s u ∧
      operate t [.mainContext, .key, .written .rdp] (fun c => cfgReadOp (reg c)) s =
        .next (setResult (.byte v) u) := by
  obtain ⟨hready, hwritten, hrdp⟩ := h
  obtain ⟨v, u, hports, hexec, -⟩ := exec_cfgRd (reg s.cfg) (fun v => .answer (.byte v)) s
  refine ⟨v, u, hrdp ▸ hports, ?_⟩
  exact (operate_pnp hready (by simpa [Req.holds, State.isWritten] using hwritten)
    (steady_cfgRd fun _ => steady_answer)).trans (congrArg _ hexec)

/-- Where the first precondition after the context and the key does not hold, the operation is refused as it says. -/
theorem operate_pnp_refused {t : Task} {q : Req} {rs : List Req} {x : Refusal} {p : Params → Prog} (h : PnpReady s)
    (hq : q.holds s = false) (hstop : q.stop = .refuse x) :
    operate t (.mainContext :: .key :: q :: rs) p s = .refused x := by
  obtain ⟨hirq, hkey, -⟩ := h
  have hmain : Req.holds s .mainContext = true := by simp [Req.holds, hirq]
  have hsent : Req.holds s .key = true := hkey
  simp [operate, guarded, hmain, hsent, hq, hstop]

/-- A set-read-port write of a candidate's byte, and the read port follows it (30 R106). -/
theorem exec_pnpRegSetRdData {v : Byte} (h : PnpReady s) (hv : isCandidate (rdpOfByte v) = true) :
    ∃ u, PortsOnly (cfgPair s.cfg.num.setRdData v) s u ∧
      exec (.pnpRegSetRdData v) s = .next (setRdpReg (rdpOfByte v) u) := by
  obtain ⟨u, hports, -, hexec⟩ :=
    exec_cfgWr s.cfg.num.setRdData v (.upd (setRdpReg (rdpOfByte v)) .done) s
  refine ⟨u, hports, ?_⟩
  exact (operate_pnp h (by simpa [Req.holds] using hv)
    (steady_cfgWr (steady_upd (fun _ => ⟨rfl, rfl, rfl⟩) steady_done))).trans (congrArg _ hexec)

end

/-- The byte is the address's bits [9:2]; its low two bits are 1 (30 R106). -/
theorem rdpOfByte_toNat (v : Byte) : (rdpOfByte v).toNat = 4 * v.toNat + 3 := by
  have hshift : v.toNat <<< 2 < 2 ^ 16 := by
    have := v.isLt
    rw [Nat.shiftLeft_eq]
    omega
  rw [rdpOfByte, BitVec.toNat_or, BitVec.toNat_shiftLeft, BitVec.toNat_setWidth_of_le (by decide),
    Nat.mod_eq_of_lt hshift, show (3 : Half).toNat = 3 from rfl,
    ← Nat.shiftLeft_add_eq_or_of_lt (by decide : 3 < 2 ^ 2), Nat.shiftLeft_eq]
  omega

/-- The candidates are the addresses of the bytes from 0x80 on (10 R23). -/
theorem isCandidate_rdpOfByte (v : Byte) : isCandidate (rdpOfByte v) = decide (0x80 ≤ v.toNat) := by
  have hv := v.isLt
  have hfirst : (0x203 : Half).toNat = 0x203 := rfl
  rw [isCandidate, rdpOfByte_toNat, Bool.eq_iff_iff]
  simp only [Bool.and_eq_true, decide_eq_true_eq]
  omega

/-- Candidate `k` is the address of byte `0x80 + k` (40 R146). -/
theorem rdpOfByte_candidate {k : Nat} (hk : k < 128) :
    rdpOfByte (BitVec.ofNat 8 (0x80 + k)) = BitVec.ofNat 16 (0x203 + 4 * k) := by
  apply BitVec.eq_of_toNat_eq
  rw [rdpOfByte_toNat, BitVec.toNat_ofNat, BitVec.toNat_ofNat]
  omega

/-- The registers of pair `k` by number (30 R122). -/
theorem ioPairReg_eq (k : BitVec 3) : ioPairReg k = BitVec.ofNat 8 (0x60 + 2 * k.toNat) := by
  revert k; decide

theorem ioPairReg_succ (k : BitVec 3) : ioPairReg k + 1 = BitVec.ofNat 8 (0x61 + 2 * k.toNat) := by
  revert k; decide

theorem isCsn_iff (n : Byte) : isCsn n = true ↔ 1 ≤ n.toNat ∧ n.toNat ≤ 10 := by
  rw [isCsn, Bool.and_eq_true, decide_eq_true_eq, decide_eq_true_eq, show Config.devCap = 10 from rfl]

theorem isCsn_false {n : Byte} (h : n = 0 ∨ 10 < n.toNat) : isCsn n = false := by
  rw [← Bool.not_eq_true, isCsn_iff]
  rcases h with rfl | h
  · decide
  · omega

/-! ## Sample rows -/

/-- A program of one part is never split. -/
theorem operate_last (t : Task) (f : State → State) (s : State) :
    operate t [] (fun _ => .last f) s = .next (f s) := rfl

theorem sampleResult_noCard {v : Half} (hone : v ≠ Config.sampleOne) (hzero : v ≠ Config.sampleZero) :
    sampleResult v = .fail (.noCard v) := by simp [sampleResult, sampleBit, hone, hzero]

theorem exec_sampleNocard {v : Half} (hone : v ≠ Config.sampleOne) (hzero : v ≠ Config.sampleZero) (s : State) :
    exec (.sampleNocard v) s = .next (setResult (.failed (.noCard v)) s) := by
  show operate _ [] (fun _ => sampleResult v) s = _
  rw [sampleResult_noCard hone hzero, Prog.fail, operate_last, raise_unlogged rfl]

/-- The set-read-port row takes the bytes of the candidates and refuses the others (40 R146). -/
theorem exec_pnpRegSetRdData_candidate {s : State} (h : PnpReady s) {k : Nat} (hk : k < 128) :
    ∃ u, PortsOnly (cfgPair s.cfg.num.setRdData (BitVec.ofNat 8 (0x80 + k))) s u ∧
      exec (.pnpRegSetRdData (BitVec.ofNat 8 (0x80 + k))) s =
        .next (setRdpReg (BitVec.ofNat 16 (0x203 + 4 * k)) u) := by
  rw [← rdpOfByte_candidate hk]
  refine exec_pnpRegSetRdData h ?_
  rw [isCandidate_rdpOfByte, decide_eq_true_eq, BitVec.toNat_ofNat]
  omega

theorem exec_pnpRegSetRdData_refused {s : State} (h : PnpReady s) {v : Byte} (hv : v.toNat < 0x80) :
    exec (.pnpRegSetRdData v) s = .refused .notCandidate :=
  operate_pnp_refused h ((isCandidate_rdpOfByte v).trans (decide_eq_false (by omega))) rfl

/-- Settles O11: every writing row but the first is a card-register write of its own register, every reading row a
card-register read. -/
theorem registerAndSampleRows : Obligations.RegisterAndSampleRows := by
  refine ⟨fun s h v => ?_, fun p s h => ?_, fun s => ⟨rfl, rfl, fun v hone hzero => exec_sampleNocard hone hzero s⟩⟩
  · have hwrite := fun t (reg : Params → Byte) => operate_cfgWr (t := t) (rs := []) h (by simp) reg v
    refine ⟨fun k hk => exec_pnpRegSetRdData_candidate h hk, exec_pnpRegSetRdData_refused h,
      hwrite _ fun c => c.num.configControl, hwrite _ fun c => c.num.wake, fun hlow hhigh => ?_, fun hv => ?_,
      hwrite _ fun c => c.num.logicalDevice, hwrite _ fun c => c.num.activate, hwrite _ fun c => c.num.ioRangeCheck,
      fun k => ?_, fun k => ?_, hwrite _ fun _ => 0x70, hwrite _ fun _ => 0x71⟩
    · have hcsn : ∀ r ∈ [Req.csn v], r.holds s = true := by simpa [Req.holds] using (isCsn_iff v).2 ⟨hlow, hhigh⟩
      exact operate_cfgWr h hcsn (fun c => c.num.csn) v
    · exact operate_pnp_refused h (isCsn_false hv) rfl
    · exact ioPairReg_eq k ▸ hwrite (.op (.pnpRegIoBaseHi k v)) fun _ => ioPairReg k
    · exact ioPairReg_succ k ▸ hwrite (.op (.pnpRegIoBaseLo k v)) fun _ => ioPairReg k + 1
  · exact ⟨operate_cfgReadOp h fun c => c.num.serialIsolation, operate_cfgReadOp h fun c => c.num.resourceData,
      operate_cfgReadOp h fun c => c.num.status⟩

/-! ## The tests of the receive pipeline -/

theorem isRunt_iff (s : State) : isRunt s = true ↔ s.rx.hdrTotal.toNat < 64 := decide_eq_true_iff

theorem isEthernetII_iff (s : State) : isEthernetII s = true ↔ 0x0600 < s.rx.etype.toNat := decide_eq_true_iff

section
variable {s : State}

theorem exec_rxRunt (h : RxReady s) (hhdr : s.wr.hdr = true) :
    exec .rxRunt s = .next (if isRunt s then setResult (.bool true) (logRunt s) else setResult (.bool false) s) := by
  refine (operate_rx h (rs := [.written .hdr]) (by simpa [Req.holds, State.isWritten] using hhdr)
    (keepsIrq_of_steady (steady_rxRuntOp s.cfg))).trans ?_
  simp [rxRuntOp, rxRunt]

theorem exec_rxClassify (h : RxReady s) (hetype : s.wr.etype = true) :
    exec .rxClassify s = .next (setResult (if isEthernetII s then .etherII else .etherI) s) :=
  operate_rx h (rs := [.written .etype]) (by simpa [Req.holds, State.isWritten] using hetype)
    (keeps_last fun u hu => by simpa using hu)

end

/-- Settles O41: each test on either side of its bound. -/
theorem rxTests : Obligations.RxTests := by
  intro s hirq hbound hlive
  have h : RxReady s := ⟨hirq, hbound, .inl hlive⟩
  refine ⟨fun hhdr hlt => ?_, fun hhdr hge => ?_, fun hetype hgt => ?_, fun hetype hle => ?_⟩
  · rw [exec_rxRunt h hhdr, if_pos ((isRunt_iff s).2 hlt)]; rfl
  · rw [exec_rxRunt h hhdr, if_neg (by rw [isRunt_iff]; omega)]
  · rw [exec_rxClassify h hetype, if_pos ((isEthernetII_iff s).2 hgt)]
  · rw [exec_rxClassify h hetype, if_neg (by rw [isEthernetII_iff]; omega)]

end Sys2Proof.Machine

/-! PROOFS. Serial isolation: the key and the card-register operations (O7 to O10), the identifier (O12 to O16), a round
(O17) and the scan (O18). -/

namespace Sys2Proof.Machine

/-! ## Preconditions -/

/-- A list of preconditions that hold, then one that does not: the operation is refused as that one says. -/
theorem operate_refused {t : Task} {pre : List Req} {q : Req} {rs : List Req} {x : Refusal} {p : Params → Prog}
    {s : State} (hpre : ∀ r ∈ pre, r.holds s = true) (hq : q.holds s = false) (hstop : q.stop = .refuse x) :
    operate t (pre ++ q :: rs) p s = .refused x := by
  unfold operate
  induction pre with
  | nil => simp [guarded, hq, hstop]
  | cons r pre ih => simpa [guarded, hpre r List.mem_cons_self] using ih fun y hy => hpre y (List.mem_cons_of_mem r hy)

/-- The engine runs undisturbed with the key sent, and its read port is known. -/
theorem portReady_reqs {p : Half} {s : State} (h : PortReady p s) :
    ∀ r ∈ [Req.mainContext, .key, .written .rdp], r.holds s = true := by
  obtain ⟨⟨hirq, hkey, -⟩, hwritten, -⟩ := h
  simp [Req.holds, State.isWritten, hirq, hkey, hwritten]

theorem rdPort_of_portReady {p : Half} {s : State} (h : PortReady p s) : s.rdPort = p := h.2.2

/-- There an operation that reads the port, and whose further preconditions hold, runs its parts. -/
theorem operate_portReady {p : Half} {t : Task} {rs : List Req} {prog : Params → Prog} {s : State}
    (h : PortReady p s) (hrs : ∀ r ∈ rs, r.holds s = true) (hprog : Steady (prog s.cfg)) :
    operate t (.mainContext :: .key :: .written .rdp :: rs) prog s = .next ((prog s.cfg).exec s) := by
  obtain ⟨hready, hwritten, -⟩ := h
  exact operate_pnp hready (by simpa [Req.holds, State.isWritten, hwritten] using hrs) hprog

/-! ## The LFSR and the key (40 R140, R141) -/

/-- The new bit 7 is the input bit xor bits 0 and 1; every other bit moves down by one (40 R140). -/
theorem getLsbD_lfsrShift (r : Byte) (b : Bool) (k : Nat) :
    (lfsrShift r b).getLsbD k =
      if k < 7 then r.getLsbD (k + 1) else decide (k < 8) && (b ^^ r.getLsbD 0 ^^ r.getLsbD 1) := by
  rw [lfsrShift, BitVec.getLsbD_append, BitVec.getLsbD_extractLsb', BitVec.getLsbD_ofBool]
  by_cases hk : k < 7
  · simp [hk, Nat.add_comm]
  · have hlast : k - 7 = 0 ↔ k < 8 := by omega
    simp [hk, hlast]

/-- One shift with a 0 fed in, as the key's bytes are made (40 R141). -/
def keyShift (v : Byte) : Byte := lfsrShift v false

/-- The LFSR fed with zeros comes back to its seed after 63 shifts (40 R140). -/
theorem keyShift_period : keyShift^[63] Config.lfsrSeed = Config.lfsrSeed := by
  simp [keyShift, lfsrShift, Config.lfsrSeed]

/-- The preamble is its writes of 0 (40 R141). -/
theorem exec_keyPreamble (n : Nat) (k : Prog) (s : State) :
    ∃ t, PortsOnly (List.replicate n (.wr8 0x279 0x00)) s t ∧ (keyPreamble n k).exec s = k.exec t := by
  induction n generalizing s with
  | zero => exact ⟨s, portsOnly_refl s, rfl⟩
  | succ n ih =>
    obtain ⟨t, hports, hexec⟩ := ih (ioWrite8 0x279 0x00 s)
    exact ⟨t, portsOnly_trans (ioWrite8_ports _ _ s) hports, hexec⟩

/-- The key bytes are the values of the LFSR, each the shift of the one before (40 R141). -/
theorem exec_keyBytes (n : Nat) (k : Prog) (v : Byte) (s : State) :
    ∃ t, PortsOnly ((List.iterate keyShift v n).map (Event.wr8 0x279)) s t ∧
      (keyBytes n k).exec (setLfsr v s) = k.exec (setLfsr (keyShift^[n] v) t) := by
  induction n generalizing v s with
  | zero => exact ⟨s, portsOnly_refl s, rfl⟩
  | succ n ih =>
    obtain ⟨t, hports, hexec⟩ := ih (keyShift v) (ioWrite8 0x279 v s)
    exact ⟨t, portsOnly_trans (ioWrite8_ports _ _ s) hports, hexec⟩

/-- The literal key of 30 R102. -/
theorem iterate_keyShift_seed :
    List.iterate keyShift Config.lfsrSeed Config.keyLen =
      [0x6A, 0xB5, 0xDA, 0xED, 0xF6, 0xFB, 0x7D, 0xBE, 0xDF, 0x6F, 0x37, 0x1B, 0x0D, 0x86, 0xC3, 0x61,
        0xB0, 0x58, 0x2C, 0x16, 0x8B, 0x45, 0xA2, 0xD1, 0xE8, 0x74, 0x3A, 0x9D, 0xCE, 0xE7, 0x73, 0x39] := rfl

/-- What it leaves in the LFSR (40 R141). -/
theorem keyShift_keyLen : keyShift^[Config.keyLen] Config.lfsrSeed = 0x9C := by
  simp [keyShift, lfsrShift, Config.lfsrSeed, Config.keyLen]

/-- `KEY.SEND` is the preamble, then the key bytes from the seed (40 R141). -/
theorem exec_keySend {s : State} (hirq : s.ctl.inIrq = false) (hquiet : Quiet s) :
    ∃ t, PortsOnly (List.replicate s.cfg.keyPreamble (.wr8 0x279 0x00) ++
        (List.iterate keyShift Config.lfsrSeed Config.keyLen).map (Event.wr8 0x279)) s t ∧
      exec .keySend s = .next (setKeySent (setLfsr 0x9C t)) := by
  obtain ⟨u, hpreamble, hexec⟩ := exec_keyPreamble s.cfg.keyPreamble
    (.upd (setLfsr Config.lfsrSeed) <| keyBytes Config.keyLen <| .last setKeySent) s
  obtain ⟨t, hkey, hexec'⟩ := exec_keyBytes Config.keyLen (.last setKeySent) Config.lfsrSeed u
  refine ⟨t, portsOnly_trans hpreamble hkey, ?_⟩
  have hrun : exec .keySend s = .next ((keySend s.cfg).exec s) :=
    operate_steady (by simp [Req.holds, hirq]) (steady_keySend s.cfg) hquiet
  rw [hrun, keySend, hexec, exec_upd, hexec', keyShift_keyLen, exec_last]

/-! ## Card-register operations (40 R142 to R148) -/

/-- The state after a card-register write (40 R143). -/
def cfgWritten (reg v : Byte) (s : State) : State :=
  ioWrite8 Config.pnpWritePort v (ioWrite8 Config.pnpAddressPort reg s)

theorem cfgWritten_ports (reg v : Byte) (s : State) : PortsOnly (cfgPair reg v) s (cfgWritten reg v s) :=
  portsOnly_trans (ioWrite8_ports _ _ s) (ioWrite8_ports _ _ _)

theorem exec_cfgWr_eq (reg v : Byte) (k : Prog) (s : State) :
    (Prog.cfgWr reg v k).exec s = k.exec (cfgWritten reg v s) := rfl

theorem cardWrite_holds {s : State} {reg v : Byte} (h : reg = s.cfg.num.csn → 1 ≤ v.toNat ∧ v.toNat ≤ 10) :
    (Req.cardWrite reg v).holds s = true := by
  by_cases hreg : reg = s.cfg.num.csn
  · simp [Req.holds, (isCsn_iff v).2 (h hreg)]
  · simp [Req.holds, hreg]

/-- A write of one port is that access (40 R142, R147). -/
theorem exec_wr8_only {t : Task} {s : State} (h : PnpReady s) (port : Half) (v : Params → Byte) :
    ∃ u, PortsOnly [.wr8 port (v s.cfg)] s u ∧
      operate t [.mainContext, .key] (fun c => .wr8 port (v c) .done) s = .next u :=
  ⟨_, ioWrite8_ports _ _ s, operate_pnp h (by simp) (steady_wr8 steady_done)⟩

/-- `PNP.RD` gives the byte that its one read returned (40 R144). -/
theorem exec_pnpRd {p : Half} {s : State} (h : PortReady p s) (reg : Byte) :
    ∃ v t, PortsOnly (cfgGet p reg v) s t ∧ exec (.pnpRd reg) s = .next (setResult (.byte v) t) ∧
      ∀ a rest, s.bus.answers = a :: rest → v = lo a ∧ t.bus.answers = rest := by
  obtain ⟨v, t, hports, hexec, hdictated⟩ := exec_cfgRd reg (fun v => .answer (.byte v)) s
  refine ⟨v, t, rdPort_of_portReady h ▸ hports, ?_, hdictated⟩
  exact (operate_portReady h (by simp) (steady_cfgRd fun _ => steady_answer)).trans (congrArg _ hexec)

/-! ## The read port (40 R146) -/

/-- The data byte of an address gives the byte it was made of (30 R106). -/
theorem rdpByte_rdpOfByte (v : Byte) : rdpByte (rdpOfByte v) = v := by
  apply BitVec.eq_of_toNat_eq
  have hv := v.isLt
  rw [rdpByte, BitVec.toNat_setWidth, BitVec.toNat_ushiftRight, rdpOfByte_toNat, Nat.shiftRight_eq_div_pow]
  omega

/-- The data byte of candidate `k` (40 R146). -/
theorem rdpByte_candidate {k : Nat} (hk : k < 128) :
    rdpByte (BitVec.ofNat 16 (0x203 + 4 * k)) = BitVec.ofNat 8 (0x80 + k) := by
  rw [← rdpOfByte_candidate hk, rdpByte_rdpOfByte]

theorem candidate_eq (k : Nat) : candidate k = BitVec.ofNat 16 (0x203 + 4 * k) := (BitVec.ofNat_add 0x203 (4 * k)).symm

theorem isCandidate_iff (p : Half) : isCandidate p = true ↔ ∃ k < 128, p.toNat = 0x203 + 4 * k := by
  simp only [isCandidate, Bool.and_eq_true, decide_eq_true_eq]
  constructor
  · rintro ⟨⟨hlow, hhigh⟩, hmod⟩
    exact ⟨(p.toNat - 0x203) / 4, by omega, by omega⟩
  · rintro ⟨k, hk, hp⟩
    omega

theorem isCandidate_ofNat {k : Nat} (hk : k < 128) : isCandidate (BitVec.ofNat 16 (0x203 + 4 * k)) = true :=
  (isCandidate_iff _).2 ⟨k, hk, by rw [BitVec.toNat_ofNat]; omega⟩

/-- Making candidate `k` the read port is one register write, then the register (40 R146). -/
theorem exec_setRdp_candidate (c : Params) {k : Nat} (hk : k < 128) (next : Prog) (s : State) :
    (setRdp c (BitVec.ofNat 16 (0x203 + 4 * k)) next).exec s =
      next.exec (setRdpReg (BitVec.ofNat 16 (0x203 + 4 * k))
        (cfgWritten c.num.setRdData (BitVec.ofNat 8 (0x80 + k)) s)) := by
  rw [setRdp, rdpByte_candidate hk]
  rfl

/-! ## Samples (40 R149, 30 R101) -/

/-- The two reads of a sample, the first in bits [7:0] (40 R149). -/
def readSample (s : State) : Half × State :=
  let low := ioRead8 s.rdPort s
  let high := ioRead8 low.2.rdPort low.2
  (pair high.1 low.1, high.2)

theorem exec_idSample (k : Half → Prog) (s : State) :
    (idSample k).exec s = (k (readSample s).1).exec (readSample s).2 := rfl

/-- A sample is two byte reads of the read port, the low byte first, and of two dictated answers (40 R149). -/
theorem readSample_ports (s : State) :
    ∃ a b : Byte, (readSample s).1 = pair b a ∧
      PortsOnly ([a, b].map (Event.rd8 s.rdPort)) s (readSample s).2 ∧
      ∀ x y rest, s.bus.answers = x :: y :: rest → a = lo x ∧ b = lo y ∧ (readSample s).2.bus.answers = rest := by
  have hlow := ioRead8_ports s.rdPort s
  refine ⟨_, _, rfl, portsOnly_trans hlow (ioRead8_ports _ _), fun x y rest h => ?_⟩
  obtain ⟨ha, hanswers⟩ := ioRead8_dictated s.rdPort s h
  obtain ⟨hb, hrest⟩ := ioRead8_dictated (ioRead8 s.rdPort s).2.rdPort _ hanswers
  exact ⟨ha, hb, hrest⟩

/-- On dictated answers a sample is the low bytes of the two. -/
theorem readSample_dictated {s : State} {a b : Half} {rest : List Half} (h : s.bus.answers = a :: b :: rest) :
    (readSample s).1 = pair (lo b) (lo a) ∧ (readSample s).2.bus.answers = rest ∧
      PortsOnly ([a, b].map fun v => .rd8 s.rdPort (lo v)) s (readSample s).2 := by
  obtain ⟨x, y, hsample, hports, hdictated⟩ := readSample_ports s
  obtain ⟨rfl, rfl, hrest⟩ := hdictated a b rest h
  exact ⟨hsample, hrest, hports⟩

theorem exec_sampleResult (v : Half) (s : State) :
    (sampleResult v).exec s =
      if v = Config.sampleOne then setResult (.bit true) s
      else if v = Config.sampleZero then setResult (.bit false) s
      else setResult (.failed (.noCard v)) s := by
  unfold sampleResult sampleBit
  split_ifs
  · rfl
  · rfl
  · exact raise_unlogged rfl s

/-- A value that is neither sample is none (30 R101). -/
theorem sampleBit_eq_none {v : Half} : sampleBit v = none ↔ v ≠ 0xAA55 ∧ v ≠ 0xFFFF := by
  unfold sampleBit Config.sampleOne Config.sampleZero
  split_ifs <;> simp_all

/-- Answers whose low bytes begin with a bit's are that bit's two reads and the rest (30 R101). -/
theorem answers_of_bit {b : Bool} {more : List Bool} {as : List Half}
    (h : as.map lo = ((b :: more).flatMap sampleAnswers).map lo) :
    ∃ x y rest, as = x :: y :: rest ∧ sampleBit (pair (lo y) (lo x)) = some b ∧
      rest.map lo = (more.flatMap sampleAnswers).map lo := by
  cases b
  all_goals
    obtain ⟨x, as, rfl, hx, h⟩ := List.map_eq_cons_iff.1 h
    obtain ⟨y, as, rfl, hy, h⟩ := List.map_eq_cons_iff.1 h
    exact ⟨x, y, as, rfl, by rw [hx, hy]; decide, h⟩

theorem portsOnly_rdPort {es : List Event} {s t : State} (h : PortsOnly es s t) : t.rdPort = s.rdPort := by rw [h]; rfl

/-! ## The identifier's registers (40 R150) -/

/-- The identifier that the bits received so far leave: these bits, then zeros (30 R103). -/
def bitsId (bits : List Bool) : BitVec 72 := (BitVec.ofBoolListLE bits).setWidth 72

/-- The LFSR after the bits received so far, of which it is fed the first 64 (40 R150). -/
def bitsLfsr (bits : List Bool) : Byte := (bits.take 64).foldl lfsrShift Config.lfsrSeed

/-- The state in `ID.READ` after these bits (40 R150). -/
def identified (bits : List Bool) (s : State) : State :=
  { s with
    iso := { s.iso with id := bitsId bits, bitcnt := BitVec.ofNat 7 bits.length, lfsr := bitsLfsr bits }
    wr := { s.wr with id := true } }

theorem getElem_bitsId (bits : List Bool) {i : Nat} (hi : i < 72) : (bitsId bits)[i] = bits[i]?.getD false := by
  simp [bitsId, ← BitVec.getLsbD_eq_getElem, hi, BitVec.getLsbD_ofBoolListLE]

/-- Storing the next bit (40 R150). -/
theorem idSetBit_bitsId (bits : List Bool) (b : Bool) :
    idSetBit (bitsId bits) bits.length b = bitsId (bits ++ [b]) := by
  ext i hi
  rw [getElem_bitsId _ hi, idSetBit]
  rcases Nat.lt_trichotomy i bits.length with hlt | rfl | hgt
  · simp [hlt, getElem_bitsId, List.getElem?_append_left hlt]
  · simp
  · simp [getElem_bitsId, hgt, hgt.le, Nat.sub_ne_zero_of_lt hgt]

theorem bitsLfsr_append (bits : List Bool) (b : Bool) :
    bitsLfsr (bits ++ [b]) = if bits.length < 64 then lfsrShift (bitsLfsr bits) b else bitsLfsr bits := by
  unfold bitsLfsr
  split
  · rename_i h
    rw [List.take_of_length_le (by simpa using h), List.take_of_length_le h.le, List.foldl_append]
    rfl
  · rename_i h
    rw [List.take_append_of_le_length (Nat.not_lt.1 h)]

/-- Storing, feeding and counting the next bit (40 R150). -/
theorem exec_idStore (bits : List Bool) (b : Bool) (k : Prog) (s : State) :
    (idStore bits.length b k).exec (identified bits s) = k.exec (identified (bits ++ [b]) s) := by
  have hafter : identified (bits ++ [b]) s =
      { identified bits s with
        iso := { s.iso with
          id := idSetBit (bitsId bits) bits.length b
          bitcnt := BitVec.ofNat 7 (bits.length + 1)
          lfsr := if bits.length < 64 then lfsrShift (bitsLfsr bits) b else bitsLfsr bits } } := by
    simp [identified, idSetBit_bitsId, bitsLfsr_append]
  rw [hafter, idStore]
  split <;> rfl

/-- The reads leave the registers alone and do not depend on them. -/
theorem readSample_identified (bits : List Bool) (s : State) :
    readSample (identified bits s) = ((readSample s).1, identified bits (readSample s).2) := rfl

/-- The next bit of `ID.READ` (40 R150). -/
theorem exec_idBits_succ {bits : List Bool} {n : Nat} (h : bits.length + (n + 1) = 72) (k : Option Failure → Prog)
    (s : State) :
    (idBits (n + 1) k).exec (identified bits s) =
      match sampleBit (readSample s).1 with
      | none => (k (some (.noCard (readSample s).1))).exec (identified bits (readSample s).2)
      | some b => (idBits n k).exec (identified (bits ++ [b]) (readSample s).2) := by
  have hindex : Config.idBits - (n + 1) = bits.length := Nat.sub_eq_of_eq_add h.symm
  simp only [idBits, exec_idSample, readSample_identified]
  cases sampleBit (readSample s).1 with
  | none => rfl
  | some b =>
    rw [hindex]
    exact exec_idStore bits b _ _

/-- On dictated answers that spell these bits, as many reads, then `ID.READ` goes on with them stored (30 R101). -/
theorem exec_idBits_dictated (k : Option Failure → Prog) (more : List Bool) {bits : List Bool} {n : Nat} {s : State}
    {as rest : List Half} (hlen : bits.length + (more.length + n) = 72) (hanswers : s.bus.answers = as ++ rest)
    (has : as.map lo = (more.flatMap sampleAnswers).map lo) :
    ∃ t, PortsOnly (as.map fun a => .rd8 s.rdPort (lo a)) s t ∧ t.bus.answers = rest ∧
      (idBits (more.length + n) k).exec (identified bits s) = (idBits n k).exec (identified (bits ++ more) t) := by
  induction more generalizing bits s as with
  | nil =>
    obtain rfl : as = [] := by simpa using has
    exact ⟨s, portsOnly_refl s, hanswers, by simp⟩
  | cons b more ih =>
    obtain ⟨x, y, as, rfl, hbit, has'⟩ := answers_of_bit has
    obtain ⟨hsample, hrest, hports⟩ := readSample_dictated hanswers
    rw [List.length_cons] at hlen ⊢
    obtain ⟨t, hports', hrest', hexec⟩ := ih (bits := bits ++ [b])
      (by rw [List.length_append, List.length_singleton]; omega) hrest has'
    rw [portsOnly_rdPort hports] at hports'
    refine ⟨t, portsOnly_trans hports hports', hrest', ?_⟩
    rw [Nat.add_right_comm, exec_idBits_succ (by omega), hsample, hbit]
    simpa using hexec

/-! ## `ID.READ` (40 R150) -/

/-- What the checksum says of a whole identifier (40 R150). -/
def checksumFailure (bits : List Bool) : Option Failure :=
  if idByte (bitsId bits) 8 = bitsLfsr bits then none else some .idChecksum

/-- What `ID.READ` does once the bits have ended (40 R150). -/
def idVerdict (k : Option Failure → Prog) : Option Failure → Prog
  | some f => k (some f)
  | none => .test idPasses (k none) (k (some .idChecksum))

theorem exec_idRead (k : Option Failure → Prog) (s : State) :
    (idRead k).exec s = (idBits 72 (idVerdict k)).exec (identified [] s) := by
  have hregs : setId 0 (setBitcnt 0 (setLfsr Config.lfsrSeed s)) = identified [] s := rfl
  have hprog : idRead k = .upd (setLfsr Config.lfsrSeed) (.upd (setBitcnt 0) <| .upd (setId 0) <|
      idBits 72 (idVerdict k)) := by
    unfold idRead
    congr 4
  rw [hprog, exec_upd, exec_upd, exec_upd, hregs]

theorem exec_idVerdict_none (k : Option Failure → Prog) (bits : List Bool) (s : State) :
    (idVerdict k none).exec (identified bits s) = (k (checksumFailure bits)).exec (identified bits s) := by
  have hpasses : idPasses (identified bits s) = decide (idByte (bitsId bits) 8 = bitsLfsr bits) := rfl
  simp only [idVerdict, exec_test, hpasses, checksumFailure, decide_eq_true_eq]
  split <;> rfl

/-- `ID.READ` on the samples of 72 bits (40 R150). -/
theorem exec_idRead_whole (k : Option Failure → Prog) {bits : List Bool} {s : State} {as rest : List Half}
    (hlen : bits.length = 72) (hanswers : s.bus.answers = as ++ rest)
    (has : as.map lo = (bits.flatMap sampleAnswers).map lo) :
    ∃ t, PortsOnly (as.map fun a => .rd8 s.rdPort (lo a)) s t ∧ t.bus.answers = rest ∧
      (idRead k).exec s = (k (checksumFailure bits)).exec (identified bits t) := by
  obtain ⟨t, hports, hrest, hexec⟩ :=
    exec_idBits_dictated (idVerdict k) bits (bits := []) (n := 0) (by simpa using hlen) hanswers has
  refine ⟨t, hports, hrest, ?_⟩
  rw [exec_idRead, ← hlen]
  exact hexec.trans (exec_idVerdict_none k bits t)

/-- `ID.READ` on fewer samples and a value that is none (40 R150). -/
theorem exec_idRead_bad (k : Option Failure → Prog) {bits : List Bool} {s : State} {a b : Half} {rest : List Half}
    (hlen : bits.length < 72) (hbad : sampleBit (pair (lo b) (lo a)) = none)
    (hanswers : s.bus.answers = bits.flatMap sampleAnswers ++ a :: b :: rest) :
    ∃ t, PortsOnly ((bits.flatMap sampleAnswers ++ [a, b]).map fun v => .rd8 s.rdPort (lo v)) s t ∧
      t.bus.answers = rest ∧
      (idRead k).exec s = (k (some (.noCard (pair (lo b) (lo a))))).exec (identified bits t) := by
  obtain ⟨n, hn⟩ : ∃ n, bits.length + (n + 1) = 72 := ⟨71 - bits.length, by omega⟩
  obtain ⟨t, hports, hrest, hexec⟩ :=
    exec_idBits_dictated (idVerdict k) bits (bits := []) (n := n + 1) (by simpa using hn) hanswers rfl
  obtain ⟨hsample, hrest', hports'⟩ := readSample_dictated hrest
  rw [portsOnly_rdPort hports] at hports'
  refine ⟨(readSample t).2, by simpa using portsOnly_trans hports hports', hrest', ?_⟩
  rw [exec_idRead, ← hn, hexec, List.nil_append, exec_idBits_succ hn, hsample, hbad]
  rfl

/-! ## `ID.READ` on whatever the bus answers (40 R154) -/

/-- The bits of the samples that these bytes make, up to the first value that is none (30 R101). -/
def goodBits : List Byte → List Bool
  | a :: b :: vs =>
    match sampleBit (pair b a) with
    | some bit => bit :: goodBits vs
    | none => []
  | _ => []

/-- The first value among these bytes that is no sample (30 R101). -/
def badSample : List Byte → Option Half
  | a :: b :: vs =>
    match sampleBit (pair b a) with
    | some _ => badSample vs
    | none => some (pair b a)
  | _ => none

/-- How `ID.READ` ends on these bytes (40 R150). -/
def readFailure (vs : List Byte) : Option Failure :=
  match badSample vs with
  | some v => some (.noCard v)
  | none => checksumFailure (goodBits vs)

theorem exec_idBits_bytes (k : Option Failure → Prog) (n : Nat) {bits : List Bool} (h : bits.length + n = 72)
    (s : State) :
    ∃ vs t, PortsOnly (vs.map (Event.rd8 s.rdPort)) s t ∧
      (idBits n k).exec (identified bits s) =
        (k ((badSample vs).map .noCard)).exec (identified (bits ++ goodBits vs) t) := by
  induction n generalizing bits s with
  | zero => exact ⟨[], s, portsOnly_refl s, by simp [idBits, badSample, goodBits]⟩
  | succ n ih =>
    obtain ⟨a, b, hsample, hports, -⟩ := readSample_ports s
    rw [exec_idBits_succ h, hsample]
    cases hbit : sampleBit (pair b a) with
    | none => exact ⟨[a, b], _, hports, by simp [badSample, goodBits, hbit]⟩
    | some bit =>
      obtain ⟨vs, t, hports', hexec⟩ := ih (bits := bits ++ [bit]) (by simp; omega) (readSample s).2
      rw [portsOnly_rdPort hports] at hports'
      refine ⟨a :: b :: vs, t, portsOnly_trans hports hports', ?_⟩
      simpa [badSample, goodBits, hbit] using hexec

/-- What `ID.READ` leaves and how it ends is a function of the bytes it read (40 R154). -/
theorem exec_idRead_bytes (k : Option Failure → Prog) (s : State) :
    ∃ vs t, PortsOnly (vs.map (Event.rd8 s.rdPort)) s t ∧
      (idRead k).exec s = (k (readFailure vs)).exec (identified (goodBits vs) t) := by
  obtain ⟨vs, t, hports, hexec⟩ := exec_idBits_bytes (idVerdict k) 72 (bits := []) rfl s
  refine ⟨vs, t, hports, ?_⟩
  rw [exec_idRead, hexec, readFailure, List.nil_append]
  cases badSample vs with
  | none => exact exec_idVerdict_none k _ t
  | some v => rfl

/-- The answer of an `ID.READ` that ended so (40 R150). -/
def readResult : Option Failure → Result
  | none => .ok
  | some f => .failed f

theorem exec_idReadResult {r : Option Failure} (h : ∀ f, r = some f → f.logged = false) (s : State) :
    (idReadResult r).exec s = setResult (readResult r) s := by
  cases r with
  | none => rfl
  | some f => exact raise_unlogged (h f rfl) s

theorem noCard_unlogged (v : Half) (f : Failure) (h : some (.noCard v) = some f) : f.logged = false :=
  Option.some.inj h ▸ rfl

theorem checksumFailure_unlogged (bits : List Bool) (f : Failure) (h : checksumFailure bits = some f) :
    f.logged = false := by
  unfold checksumFailure at h
  split_ifs at h
  exact Option.some.inj h ▸ rfl

/-- Neither failure of `ID.READ` is logged (60 R292). -/
theorem readFailure_unlogged (vs : List Byte) (f : Failure) (h : readFailure vs = some f) : f.logged = false := by
  unfold readFailure at h
  split at h
  · exact noCard_unlogged _ f h
  · exact checksumFailure_unlogged _ f h

/-- Where nothing splits it, `ID.READ` is determined by the reads that the traffic shows (40 R154). -/
theorem exec_idRead_of_trace {s t : State} {vs : List Byte} (h : Quiet s) (e : exec .idRead s = .next t)
    (htrace : t.bus.trace = s.bus.trace ++ vs.map (Event.rd8 s.iso.rdp)) :
    ∃ u, t = setResult (readResult (readFailure vs)) (identified (goodBits vs) u) := by
  obtain ⟨-, ht⟩ := guarded_next.1 e
  obtain ⟨ws, u, hports, hexec⟩ := exec_idRead_bytes idReadResult s
  rw [run_eq_exec (quietRun_of_steady (steady_idReadOp s.cfg) h)] at ht
  have hws : t = setResult (readResult (readFailure ws)) (identified (goodBits ws) u) :=
    ht.trans (hexec.trans (exec_idReadResult (readFailure_unlogged ws) _))
  have hbus : t.bus.trace = u.bus.trace := by rw [hws]; rfl
  rw [hbus, hports] at htrace
  have hinj : Function.Injective (Event.rd8 s.iso.rdp) := fun _ _ => by simp
  obtain rfl : ws = vs := List.map_injective_iff.2 hinj (List.append_cancel_left htrace)
  exact ⟨u, hws⟩

theorem exec_idRead_run {s : State} {p : Half} (h : PortReady p s) :
    exec .idRead s = .next ((idRead idReadResult).exec s) :=
  operate_portReady h (by simp) (steady_idReadOp s.cfg)

/-! ## The whole identifier (30 R103) -/

/-- The bits of an identifier in the order received: bit 0 of byte 0 first (30 R103). -/
def idBitList (x : BitVec 72) : List Bool := (List.range 72).map fun k => x.getLsbD k

theorem length_idBitList (x : BitVec 72) : (idBitList x).length = 72 := by simp [idBitList]

theorem idAnswers_eq (x : BitVec 72) : idAnswers x = (idBitList x).flatMap sampleAnswers := by
  simp only [idAnswers, idBitList, List.flatMap_map]

theorem bitsId_idBitList (x : BitVec 72) : bitsId (idBitList x) = x := by
  ext i hi
  simp [getElem_bitsId, idBitList, hi]

theorem bitsLfsr_idBitList (x : BitVec 72) : bitsLfsr (idBitList x) = idChecksum x := by
  simp only [bitsLfsr, idBitList, idChecksum, ← List.map_take, List.take_range, List.foldl_map]
  rfl

theorem identified_idBitList (x : BitVec 72) (s : State) :
    identified (idBitList x) s =
      { s with iso := { s.iso with id := x, bitcnt := 72, lfsr := idChecksum x }, wr := { s.wr with id := true } } := by
  rw [identified, bitsId_idBitList, bitsLfsr_idBitList, length_idBitList]
  rfl

/-- Shifting down and truncating takes out a field. -/
theorem setWidth_ushiftRight_eq_extractLsb' {w : Nat} (x : BitVec w) (start len : Nat) :
    (x >>> start).setWidth len = x.extractLsb' start len := by
  ext i hi
  simp

/-- Byte `i` of the identifier is a field of it (30 R103). -/
theorem idByte_eq (x : BitVec 72) (i : Nat) : idByte x i = x.extractLsb' (8 * i) 8 :=
  setWidth_ushiftRight_eq_extractLsb' x (8 * i) 8

theorem checksumFailure_idBitList (x : BitVec 72) :
    checksumFailure (idBitList x) = if x.extractLsb' 64 8 = idChecksum x then none else some .idChecksum := by
  rw [checksumFailure, bitsId_idBitList, bitsLfsr_idBitList, idByte_eq]

/-- With 64 zeros fed in the LFSR holds 0xB5, for its period is 63 (40 R152). -/
theorem idChecksum_zero : idChecksum 0 = 0xB5 := by
  have hfold : idChecksum 0 = keyShift^[64] Config.lfsrSeed := by
    have hbit : ∀ k, (0 : BitVec 72).getLsbD k = false := fun _ => BitVec.getLsbD_zero
    simp only [idChecksum, hbit]
    exact List.foldl_const keyShift _ _
  rw [hfold, Function.iterate_succ_apply', keyShift_period]
  decide

/-! ## `ID.DECODE` (40 R151, 30 R103, R104) -/

theorem calm_idDecode : Calm idDecode := fun s => calm_setResult _ s

/-- Five bits of each character, the middle one across the two bytes (30 R104). -/
theorem decodeVendor_eq (b0 b1 : Byte) :
    decodeVendor b0 b1 = ⟨0x40 + (b0.extractLsb' 2 5).setWidth 8,
      0x40 + (b0.extractLsb' 0 2 ++ b1.extractLsb' 5 3).setWidth 8, 0x40 + (b1.extractLsb' 0 5).setWidth 8⟩ := by
  have hfirst : ∀ b : Byte, (b >>> 2) &&& 0x1F = (b.extractLsb' 2 5).setWidth 8 := by decide
  have hhigh : ∀ b : Byte, b &&& 0x03 = (b.extractLsb' 0 2).setWidth 8 := by decide
  have hlow : ∀ b : Byte, b >>> 5 = (b.extractLsb' 5 3).setWidth 8 := by decide
  have hlast : ∀ b : Byte, b &&& 0x1F = (b.extractLsb' 0 5).setWidth 8 := by decide
  have hjoin : ∀ (u : BitVec 2) (v : BitVec 3), (u.setWidth 8 <<< 3) ||| v.setWidth 8 = (u ++ v).setWidth 8 := by
    decide
  rw [decodeVendor, hfirst, hhigh, hlow, hlast, hjoin]
  rfl

/-- A field within a field. -/
theorem extractLsb'_extractLsb' {w : Nat} (x : BitVec w) {start len start' len' : Nat} (h : start' + len' ≤ len) :
    (x.extractLsb' start len).extractLsb' start' len' = x.extractLsb' (start + start') len' := by
  ext i hi
  have : start' + i < len := by omega
  simp [this, Nat.add_assoc]

theorem idVendor_eq (x : BitVec 72) :
    idVendor x = ⟨0x40 + (x.extractLsb' 2 5).setWidth 8,
      0x40 + (x.extractLsb' 0 2 ++ x.extractLsb' 13 3).setWidth 8,
      0x40 + (x.extractLsb' 8 5).setWidth 8⟩ := by
  rw [idVendor, decodeVendor_eq, idByte_eq, idByte_eq, extractLsb'_extractLsb' x (by decide),
    extractLsb'_extractLsb' x (by decide), extractLsb'_extractLsb' x (by decide), extractLsb'_extractLsb' x (by decide)]

theorem idProduct_eq (x : BitVec 72) : idProduct x = x.extractLsb' 16 8 ++ x.extractLsb' 24 8 := by
  rw [idProduct, idByte_eq, idByte_eq, pair]

theorem idSerial_eq (x : BitVec 72) :
    idSerial x = x.extractLsb' 56 8 ++ x.extractLsb' 48 8 ++ x.extractLsb' 40 8 ++ x.extractLsb' 32 8 := by
  have hjoin : ∀ {start start' len : Nat}, start' = start + 8 →
      x.extractLsb' start' len ++ x.extractLsb' start 8 = x.extractLsb' start (len + 8) :=
    BitVec.extractLsb'_append_extractLsb'_eq_extractLsb'
  rw [idSerial, setWidth_ushiftRight_eq_extractLsb', hjoin (start := 48) rfl, hjoin (start := 40) rfl,
    hjoin (start := 32) rfl]

/-! ## How a program ends, split or not -/

/-- The program has a last part, and whatever its parts before have read, that part leaves a state with `P`. -/
def EndsIn (P : State → Prop) : Prog → Prop
  | .done => False
  | .act f k => ∀ s, ((k (f s).1).isDone = true ∧ P (f s).2) ∨ EndsIn P (k (f s).1)

section
variable {P : State → Prop}

theorem endsIn_last {f : State → State} (h : ∀ s, P (f s)) : EndsIn P (.last f) := fun s => .inl ⟨rfl, h s⟩

theorem endsIn_upd {f : State → State} {k : Prog} (h : EndsIn P k) : EndsIn P (.upd f k) := fun _ => .inr h

theorem endsIn_test {f : State → Bool} {yes no : Prog} (hy : EndsIn P yes) (hn : EndsIn P no) :
    EndsIn P (.test f yes no) := fun s => .inr (by cases h : f s <;> simpa [Val.toBool, h])

theorem endsIn_idSample {k : Half → Prog} (h : ∀ v, EndsIn P (k v)) : EndsIn P (idSample k) :=
  fun _ => .inr fun _ => .inr (h _)

theorem isDone_of_endsIn {p : Prog} (h : EndsIn P p) : p.isDone = false := by
  cases p with
  | done => exact h.elim
  | act f k => rfl

/-- A step of the main context ends as its last part leaves it, or is split, and then the handler's run has answered
nothing yet (60 R302). -/
theorem run_endsIn {p : Prog} (hp : EndsIn P p) (hmain : Keeps (fun u => u.ctl.inIrq = false) p) {s : State}
    (hs : s.ctl.inIrq = false) (t : Task) (got : List Val) :
    P (p.run t got s) ∨ (p.run t got s).result = .unit := by
  induction p generalizing got s with
  | done => exact hp.elim
  | act f k ih =>
    have hnext : (f s).2.ctl.inIrq = false := hmain.1 s hs
    rw [run_act]
    rcases hp s with ⟨hdone, hP⟩ | hrest
    · exact .inl (by rwa [if_pos hdone])
    · rw [if_neg (by simp [isDone_of_endsIn hrest])]
      rcases deliver_cases (f s).2 with ⟨-, b, e, -⟩ | ⟨b, e, -⟩
      · refine .inr ?_
        rw [e]
        simp [takeInterrupt, hnext, suspendAs, State.result, State.active]
      · rw [e, if_neg (by simp [hnext])]
        exact ih _ hrest (hmain.2 _) (s := { (f s).2 with bus := b }) hnext _

end

theorem keepsMain_of_steady {p : Prog} (hp : Steady p) : Keeps (fun u => u.ctl.inIrq = false) p := by
  induction p with
  | done => trivial
  | act f k ih => exact ⟨fun s hs => (hp.1 s).2.1.trans hs, fun v => ih v (hp.2 v)⟩

/-- Where a failure is `NoCard`, the value it names is no sample (40 R149). -/
def HonestNoCard (s : State) : Prop := ∀ v, s.result = .failed (.noCard v) → sampleBit v = none

theorem endsIn_idReadResult {r : Option Failure} (h : ∀ v, r = some (.noCard v) → sampleBit v = none) :
    EndsIn HonestNoCard (idReadResult r) := by
  cases r with
  | none => exact endsIn_last fun s v hv => by simp at hv
  | some f => exact endsIn_last fun s v hv => h v (by simpa using hv)

theorem endsIn_idBits {P : State → Prop} (n : Nat) {k : Option Failure → Prog} (hnone : EndsIn P (k none))
    (hbad : ∀ v, sampleBit v = none → EndsIn P (k (some (.noCard v)))) : EndsIn P (idBits n k) := by
  induction n with
  | zero => exact hnone
  | succ n ih =>
    refine endsIn_idSample fun v => ?_
    cases hbit : sampleBit v with
    | none => exact hbad v hbit
    | some b =>
      refine endsIn_upd ?_
      split
      · exact endsIn_upd (endsIn_upd ih)
      · exact endsIn_upd ih

theorem endsIn_idReadOp (c : Params) : EndsIn HonestNoCard (idReadOp c) :=
  endsIn_upd <| endsIn_upd <| endsIn_upd <| endsIn_idBits _
    (endsIn_test (endsIn_idReadResult nofun) (endsIn_idReadResult (by simp)))
    fun v hv => endsIn_idReadResult (by simpa using hv)

/-- `NoCard` arises only from a value that is no sample, split or not (40 R152). -/
theorem exec_idRead_honest {s t : State} (e : exec .idRead s = .next t) : HonestNoCard t := by
  obtain ⟨hreqs, rfl⟩ := guarded_next.1 e
  have hmain : s.ctl.inIrq = false := by simpa [Req.holds] using hreqs .mainContext (by simp)
  rcases run_endsIn (endsIn_idReadOp s.cfg) (keepsMain_of_steady (steady_idReadOp s.cfg)) hmain (.op .idRead) [] with
    h | h
  · exact h
  · intro v hv
    rw [h] at hv
    exact nomatch hv

/-! ## A round (40 R155) -/

/-- What a round does once the read has ended (40 R155). -/
def isoVerdict (c : Params) : Option Failure → Prog
  | some _ => .answer .noneFound
  | none => isoStore c

/-- The accesses of a round before its reads: a wake unless it is the first, then the isolation select (40 R155). -/
def roundStart (m : Numbers) (first : Bool) : List Event :=
  (if first then [] else cfgPair m.wake 0x00) ++ [.wr8 0x279 m.serialIsolation]

theorem exec_isoRound_start (first : Bool) (c : Params) (s : State) :
    ∃ t, PortsOnly (roundStart c.num first) s t ∧ t.bus.answers = s.bus.answers ∧
      (isoRound first c).exec s = (idRead (isoVerdict c)).exec t := by
  have hprog : isoRound first c = (if first then id else wake c 0) (isoSelect c (idRead (isoVerdict c))) := by
    unfold isoRound
    congr 4
  rw [hprog]
  cases first with
  | true => exact ⟨_, ioWrite8_ports _ _ s, rfl, rfl⟩
  | false =>
    exact ⟨_, portsOnly_trans (cfgWritten_ports c.num.wake 0 s) (ioWrite8_ports _ _ _), rfl, rfl⟩

/-- The card just isolated is counted in the table, and its data is to be read (40 R155). -/
def stored (s : State) : State :=
  push [.op (.rdDecode (BitVec.ofNat 8 s.dev.length)), .answer .found]
    (clearCsum { s with dev := s.dev ++ [newDevice s], fresh := none })

/-- A found card: its CSN is written, then its entry counted (40 R155). -/
theorem exec_isoStore (c : Params) {s : State} (h : s.dev.length < 10) (bits : List Bool) :
    ∃ t, PortsOnly (cfgPair c.num.csn (BitVec.ofNat 8 (s.dev.length + 1))) s t ∧ t.bus.answers = s.bus.answers ∧
      (isoStore c).exec (identified bits s) = stored (identified bits t) := by
  refine ⟨_, cfgWritten_ports _ _ s, rfl, ?_⟩
  have hcounted : ∀ u d, u.dev = s.dev → countDevice (setFresh (.device d) u) =
      { u with dev := u.dev ++ [d], fresh := none } := fun u d hu => by
    rw [countDevice_setFresh, addEntry_of_lt (by rw [hu]; exact h)]
  rw [isoStore, exec_nat]
  exact congrArg (fun u => push _ (clearCsum u)) (hcounted _ _ rfl)

/-- A round that found no card (40 R155). -/
theorem exec_isoVerdict_some (c : Params) (f : Failure) (s : State) :
    (isoVerdict c (some f)).exec s = setResult .noneFound s := rfl

theorem exec_isoRound_run {s : State} {p : Half} (h : PortReady p s) (hroom : s.dev.length < 10) (first : Bool) :
    exec (.isoRound first) s = .next ((isoRound first s.cfg).exec s) :=
  operate_portReady h (List.forall_mem_singleton.2 (decide_eq_true hroom)) (steady_isoRound first s.cfg)

theorem exec_isoRound_full {s : State} {p : Half} (h : PortReady p s) (hfull : 10 ≤ s.dev.length) (first : Bool) :
    exec (.isoRound first) s = .refused .tableFull :=
  operate_refused (rs := []) (portReady_reqs h) (decide_eq_false (Nat.not_lt.2 hfull)) rfl

/-- A round on the samples of a whole identifier (40 R155). -/
theorem exec_isoRound_whole {s : State} {p : Half} (h : PortReady p s) (hroom : s.dev.length < 10) (first : Bool)
    (x : BitVec 72) {rest : List Half} (hanswers : s.bus.answers = idAnswers x ++ rest) :
    ∃ t, PortsOnly (roundStart s.cfg.num first ++ (idAnswers x).map fun a => .rd8 p (lo a)) s t ∧
      t.bus.answers = rest ∧
      exec (.isoRound first) s =
        .next ((isoVerdict s.cfg (checksumFailure (idBitList x))).exec (identified (idBitList x) t)) := by
  obtain ⟨u, hstart, hanswers', hexec⟩ := exec_isoRound_start first s.cfg s
  rw [hanswers, idAnswers_eq] at hanswers'
  obtain ⟨t, hreads, hrest, hexec'⟩ := exec_idRead_whole (isoVerdict s.cfg) (length_idBitList x) hanswers' rfl
  rw [portsOnly_rdPort hstart, rdPort_of_portReady h, ← idAnswers_eq] at hreads
  exact ⟨t, portsOnly_trans hstart hreads, hrest, by rw [exec_isoRound_run h hroom, hexec, hexec']⟩

/-- A round whose checksum agrees counts the card (40 R155). -/
theorem exec_isoRound_found {s : State} {p : Half} (h : PortReady p s) (hroom : s.dev.length < 10) (first : Bool)
    {x : BitVec 72} {rest : List Half} (hanswers : s.bus.answers = idAnswers x ++ rest)
    (hsum : x.extractLsb' 64 8 = idChecksum x) :
    ∃ t, PortsOnly (roundStart s.cfg.num first ++ ((idAnswers x).map fun a => .rd8 p (lo a)) ++
        cfgPair s.cfg.num.csn (BitVec.ofNat 8 (s.dev.length + 1))) s t ∧ t.bus.answers = rest ∧
      exec (.isoRound first) s = .next (stored (identified (idBitList x) t)) := by
  obtain ⟨t, hports, hrest, hexec⟩ := exec_isoRound_whole h hroom first x hanswers
  have hdev : t.dev = s.dev := by rw [hports]
  obtain ⟨u, hcsn, hrest', hstored⟩ := exec_isoStore s.cfg (hdev ▸ hroom) (idBitList x)
  rw [hdev] at hcsn
  refine ⟨u, portsOnly_trans hports hcsn, hrest'.trans hrest, ?_⟩
  rw [hexec, checksumFailure_idBitList, if_pos hsum, isoVerdict, hstored]

/-- What counting the card leaves (40 R151, R155). -/
theorem stored_identified {s t : State} (hdev : t.dev = s.dev) (x : BitVec 72) :
    stored (identified (idBitList x) t) = push [.op (.rdDecode (BitVec.ofNat 8 s.dev.length)), .answer .found]
      { t with
        iso := { t.iso with id := x, bitcnt := 72, lfsr := idChecksum x }
        wr := { t.wr with id := true, csum := true }
        dec := { t.dec with csum := 0 }
        dev := t.dev ++ [⟨idVendor x, idProduct x, idSerial x, BitVec.ofNat 8 (s.dev.length + 1), Crd.empty⟩]
        fresh := none } := by
  rw [identified_idBitList, ← hdev]
  rfl

/-- A round that meets a value that is no sample (40 R155). -/
theorem exec_isoRound_bad {s : State} {p : Half} (h : PortReady p s) (hroom : s.dev.length < 10) (first : Bool)
    {bits : List Bool} {a b : Half} {rest : List Half} (hlen : bits.length < 72)
    (hbad : sampleBit (pair (lo b) (lo a)) = none)
    (hanswers : s.bus.answers = bits.flatMap sampleAnswers ++ a :: b :: rest) :
    ∃ t, PortsOnly (roundStart s.cfg.num first ++
        (bits.flatMap sampleAnswers ++ [a, b]).map fun v => .rd8 p (lo v)) s t ∧ t.bus.answers = rest ∧
      exec (.isoRound first) s = .next (setResult .noneFound (identified bits t)) := by
  obtain ⟨u, hstart, hanswers', hexec⟩ := exec_isoRound_start first s.cfg s
  rw [hanswers] at hanswers'
  obtain ⟨t, hreads, hrest, hexec'⟩ := exec_idRead_bad (isoVerdict s.cfg) hlen hbad hanswers'
  rw [portsOnly_rdPort hstart, rdPort_of_portReady h] at hreads
  exact ⟨t, portsOnly_trans hstart hreads, hrest,
    by rw [exec_isoRound_run h hroom, hexec, hexec', exec_isoVerdict_some]⟩

/-- Whatever the bus answers, a round finds a card or none, after port accesses alone (40 R155). -/
theorem exec_isoRound_cases {s : State} {p : Half} (h : PortReady p s) (hroom : s.dev.length < 10) (first : Bool) :
    ∃ es bits t, PortsOnly es s t ∧
      (exec (.isoRound first) s = .next (stored (identified bits t)) ∨
        exec (.isoRound first) s = .next (setResult .noneFound (identified bits t))) := by
  obtain ⟨u, hstart, -, hexec⟩ := exec_isoRound_start first s.cfg s
  obtain ⟨vs, t, hreads, hexec'⟩ := exec_idRead_bytes (isoVerdict s.cfg) u
  have hports := portsOnly_trans hstart hreads
  rw [exec_isoRound_run h hroom, hexec, hexec']
  cases readFailure vs with
  | some f => exact ⟨_, goodBits vs, t, hports, .inr rfl⟩
  | none =>
    have hdev : t.dev = s.dev := by rw [hports]
    obtain ⟨w, hcsn, -, hexec''⟩ := exec_isoStore s.cfg (hdev ▸ hroom) (goodBits vs)
    exact ⟨_, goodBits vs, w, portsOnly_trans hports hcsn, .inl (congrArg _ hexec'')⟩

/-- Steps in front of a main context that runs (log 10). -/
theorem push_main {s : State} (h : s.ctl.inIrq = false) (ts : List Task) :
    (push ts s).ctl.main.todo = ts ++ s.ctl.main.todo := by simp [push, State.setActive, State.active, h]

theorem setResult_main {s : State} (h : s.ctl.inIrq = false) (r : Result) :
    (setResult r s).ctl.main.todo = s.ctl.main.todo := by simp [setResult, State.setActive, State.active, h]

/-- A round that found a card has one device more, and the card's data to read (40 R155). -/
theorem stored_found {es : List Event} {s t : State} (hports : PortsOnly es s t) (hmain : s.ctl.inIrq = false)
    (bits : List Bool) :
    (stored (identified bits t)).dev.length = s.dev.length + 1 ∧ (stored (identified bits t)).log = s.log ∧
      (stored (identified bits t)).ctl.main.todo =
        .op (.rdDecode (BitVec.ofNat 8 s.dev.length)) :: .answer .found :: s.ctl.main.todo := by
  have htodo := push_main (s := clearCsum
    { identified bits t with dev := t.dev ++ [newDevice (identified bits t)], fresh := none })
    (by rw [hports]; exact hmain) [.op (.rdDecode (BitVec.ofNat 8 t.dev.length)), .answer .found]
  rw [hports] at htodo ⊢
  exact ⟨by simp [stored, identified], rfl, htodo⟩

/-- A round that found none leaves the table, the log and the decoder as they were (40 R155). -/
theorem noneFound_frame {es : List Event} {s t : State} (hports : PortsOnly es s t) (hmain : s.ctl.inIrq = false)
    (bits : List Bool) :
    let u := setResult .noneFound (identified bits t)
    u.dev = s.dev ∧ u.log = s.log ∧ u.dec = s.dec ∧ u.result = .noneFound ∧ u.ctl.main.todo = s.ctl.main.todo := by
  have htodo := setResult_main (s := identified bits t) (by rw [hports]; exact hmain) .noneFound
  rw [hports] at htodo ⊢
  exact ⟨rfl, rfl, rfl, setResult_result _ _, htodo⟩

/-! ## The scan (40 R156, R157) -/

theorem steady_enumAt (k : Nat) (c : Params) : Steady (enumAt k c) := by
  unfold enumAt
  split
  · exact steady_upd (fun _ => ⟨rfl, rfl, rfl⟩) (steady_cfgWr (steady_setRdp _ _ (steady_last (calm_push _))))
  · exact steady_upd (fun _ => ⟨rfl, rfl, rfl⟩) steady_answer

theorem steady_enumRounds (k : Nat) (first found : Bool) (c : Params) : Steady (enumRounds k first found c) :=
  steady_test (steady_last (calm_push _)) (steady_upd (calm_raise _) (steady_last fun _ => ⟨rfl, rfl, rfl⟩))

theorem steady_enumAfter (k : Nat) (found : Bool) (c : Params) : Steady (enumAfter k found c) := by
  refine steady_test (steady_last (calm_push _)) ?_
  split
  · exact steady_upd (fun _ => ⟨rfl, rfl, rfl⟩) steady_answer
  · exact steady_last (calm_push _)

section
variable {s : State}

theorem exec_pnpEngine (hmain : s.ctl.inIrq = false) (hphase : s.phase = .powerOn) :
    exec .pnpEngine s =
      .next (push [.op .keySend, .setPhase .keySent, .op .isoEnum, .op .cfgAll, .setPhase .configured] s) :=
  guarded_run (by simp [Req.holds, hmain, hphase])

theorem exec_pnpEngine_refused (hmain : s.ctl.inIrq = false) (hphase : s.phase ≠ .powerOn) :
    exec .pnpEngine s = .refused .badPhase := by
  show execPnpEngine s = _
  unfold execPnpEngine
  exact operate_refused (pre := [.mainContext]) (q := .phaseIs .powerOn) (rs := []) (by simp [Req.holds, hmain])
    (decide_eq_false hphase) rfl

theorem exec_isoEnum (h : PnpReady s) : exec .isoEnum s = .next (push [.enumAt 0] s) :=
  operate_pnp h (by simp) (p := fun _ => .last (push [.enumAt 0])) (steady_last (calm_push _))

/-- A candidate is announced, woken and made the read port (40 R156). -/
theorem runTask_enumAt (h : PnpReady s) {k : Nat} (hk : k < 128) :
    ∃ t, PortsOnly (cfgPair s.cfg.num.wake 0x00 ++ cfgPair s.cfg.num.setRdData (BitVec.ofNat 8 (0x80 + k))) s t ∧
      runTask (.enumAt k) s = .next (push [.enumRounds k true false]
        (setRdpReg (BitVec.ofNat 16 (0x203 + 4 * k))
          (setPhase (.scanning (BitVec.ofNat 16 (0x203 + 4 * k))) t))) := by
  have hrun : runTask (.enumAt k) s = .next ((enumAt k s.cfg).exec s) :=
    operate_pnp h (by simp) (steady_enumAt k s.cfg)
  refine ⟨_, portsOnly_trans (cfgWritten_ports s.cfg.num.wake 0 s) (cfgWritten_ports _ _ _), ?_⟩
  have hscan : k < Config.rdpCandidates := hk
  rw [hrun, enumAt, if_pos hscan, candidate_eq, exec_upd, wake, exec_cfgWr_eq, exec_setRdp_candidate _ hk, exec_last]
  rfl

theorem runTask_enumAt_end (h : PnpReady s) :
    runTask (.enumAt 128) s = .next (setResult .unit (setPhase .enumerated s)) :=
  operate_pnp h (by simp) (steady_enumAt 128 s.cfg)

/-- With room in the table, a round (40 R156). -/
theorem runTask_enumRounds (h : PnpReady s) (k : Nat) (first found : Bool) :
    runTask (.enumRounds k first found) s = .next
      (if s.dev.length < 10 then push [.op (.isoRound first), .enumAfter k found] s
      else setPhase .enumerated (raise .deviceTableFull s)) := by
  have hrun : runTask (.enumRounds k first found) s = .next ((enumRounds k first found s.cfg).exec s) :=
    operate_pnp h (by simp) (steady_enumRounds k first found s.cfg)
  rw [hrun, enumRounds, exec_test]
  simp only [decide_eq_true_eq]
  rfl

/-- After a round that found a card another one, else the end of the scan or the next candidate (40 R156). -/
theorem runTask_enumAfter (h : PnpReady s) (k : Nat) (found : Bool) :
    runTask (.enumAfter k found) s = .next
      (if s.result = .found then push [.enumRounds k false true] s
      else if found then setResult .unit (setPhase .enumerated s) else push [.enumAt (k + 1)] s) := by
  have hrun : runTask (.enumAfter k found) s = .next ((enumAfter k found s.cfg).exec s) :=
    operate_pnp h (by simp) (steady_enumAfter k found s.cfg)
  rw [hrun, enumAfter, exec_test]
  simp only [decide_eq_true_eq]
  cases found <;> rfl

end

end Sys2Proof.Machine

/-! What the statements say of serial isolation, each from the lemmas above. -/

namespace Sys2Proof.Isolation

open Machine

/-- Settles O7: bit by bit, and the period as that of the key's shift. -/
theorem lfsrShift : Obligations.LfsrShift := by
  refine ⟨fun r b s => ⟨Machine.lfsrShift r b, rfl, ?_, fun k hk => ?_⟩, ?_⟩
  · rw [getLsbD_lfsrShift, if_neg (by decide)]
    exact Bool.true_and _
  · rw [getLsbD_lfsrShift, if_pos hk]
  · exact (List.foldl_const keyShift _ _).trans keyShift_period

/-- Settles O8: the key bytes are the literal ones. -/
theorem keySend : Obligations.KeySend := by
  intro s hirq hquiet
  obtain ⟨t, hports, hexec⟩ := exec_keySend hirq hquiet
  exact ⟨t, iterate_keyShift_seed ▸ hports, hexec⟩

/-- Settles O9: each operation by the accesses of its program. -/
theorem cardAccess : Obligations.CardAccess := by
  refine ⟨fun s h => ⟨fun reg => exec_wr8_only h _ fun _ => reg, fun reg v hcsn => ?_, fun v hv => ?_, fun csn => ?_,
    exec_wr8_only h _ fun c => c.num.serialIsolation, fun n hlow hhigh => ?_, fun n hn => ?_⟩,
    fun p s reg h => exec_pnpRd h reg⟩
  · exact operate_cfgWr h (rs := [.cardWrite reg v]) (by simpa using cardWrite_holds hcsn) (fun _ => reg) v
  · exact operate_pnp_refused h (by simp [Req.holds, isCsn_false hv]) rfl
  · exact operate_cfgWr h (rs := []) (by simp) (fun c => c.num.wake) csn
  · exact operate_cfgWr h (rs := [.csn n]) (by simpa [Req.holds] using (isCsn_iff n).2 ⟨hlow, hhigh⟩)
      (fun c => c.num.csn) n
  · exact operate_pnp_refused h (isCsn_false hn) rfl

/-- Settles O10: the candidates are the addresses taken, and the data byte of one is its number and 0x80. -/
theorem setReadPort : Obligations.SetReadPort := by
  refine fun s h => ⟨fun k hk => ?_, fun p hp => ?_⟩
  · refine ⟨_, cfgWritten_ports _ _ s, ?_⟩
    exact (operate_pnp h (by simpa [Req.holds] using isCandidate_ofNat hk) (steady_setRdp _ _ steady_done)).trans
      (congrArg _ (exec_setRdp_candidate s.cfg hk .done s))
  · have hnot : isCandidate p = false := by
      rw [← Bool.not_eq_true, isCandidate_iff]
      rintro ⟨k, hk, hpk⟩
      exact hp k hk hpk
    exact operate_pnp_refused h hnot rfl

/-- Settles O12: the two reads, then the value's meaning. -/
theorem idSample : Obligations.IdSample := by
  intro p s h
  obtain ⟨a, b, hsample, hports, hdictated⟩ := readSample_ports s
  refine ⟨a, b, (readSample s).2, rdPort_of_portReady h ▸ hports, hdictated, ?_⟩
  have hrun : exec .idSample s = .next ((Machine.idSample sampleResult).exec s) :=
    operate_portReady h (by simp) (steady_idSample steady_sampleResult)
  rw [hrun, exec_idSample, hsample, exec_sampleResult]
  rfl

/-- Settles O13: the bits of the samples are stored, and either the checksum or the value that is no sample answers. -/
theorem idRead : Obligations.IdRead := by
  refine ⟨fun p x rest s h hanswers => ?_, fun p a b bits rest s h hlen hone hzero hanswers => ?_⟩
  · rw [idAnswers_eq] at hanswers ⊢
    obtain ⟨t, hports, hrest, hexec⟩ := exec_idRead_whole idReadResult (length_idBitList x) hanswers rfl
    refine ⟨t, rdPort_of_portReady h ▸ hports, hrest, ?_⟩
    rw [exec_idRead_run h, hexec, exec_idReadResult (checksumFailure_unlogged _), checksumFailure_idBitList,
      identified_idBitList, apply_ite readResult]
    rfl
  · obtain ⟨t, hports, hrest, hexec⟩ :=
      exec_idRead_bad idReadResult hlen (sampleBit_eq_none.2 ⟨hone, hzero⟩) hanswers
    refine ⟨t, rdPort_of_portReady h ▸ hports, hrest, ?_⟩
    rw [exec_idRead_run h, hexec, exec_idReadResult (noCard_unlogged _)]
    rfl

/-- Settles O14: both reads are the same function of the bytes. -/
theorem idReadDeterministic : Obligations.IdReadDeterministic := by
  intro p₁ p₂ vs s₁ s₂ t₁ t₂ _ hp₁ _ hp₂ hquiet₁ hquiet₂ hexec₁ hexec₂ htrace₁ htrace₂
  obtain ⟨u₁, rfl⟩ := exec_idRead_of_trace hquiet₁ hexec₁ (hp₁ ▸ htrace₁)
  obtain ⟨u₂, rfl⟩ := exec_idRead_of_trace hquiet₂ hexec₂ (hp₂ ▸ htrace₂)
  simp [identified]

/-- Settles O15: an empty bus is 72 zero samples; a read that ends in `NoCard` ends at a value that is none. -/
theorem emptyBus : Obligations.EmptyBus := by
  refine ⟨fun p as rest s h hlen has hanswers => ?_, fun s t v hexec hresult => ?_⟩
  · have hbytes : as.map lo = List.replicate 144 0xFF :=
      List.eq_replicate_iff.2 ⟨by simpa using hlen, List.forall_mem_map.2 has⟩
    have hspelt : as.map lo = ((idBitList 0).flatMap sampleAnswers).map lo := hbytes.trans (by decide)
    obtain ⟨t, hports, hrest, hexec⟩ := exec_idRead_whole idReadResult (length_idBitList 0) hanswers hspelt
    have hreads : (as.map fun a => Event.rd8 p (lo a)) = List.replicate 144 (.rd8 p 0xFF) := by
      rw [← List.map_replicate, ← hbytes, List.map_map]
      rfl
    refine ⟨t, hreads ▸ rdPort_of_portReady h ▸ hports, hrest, ?_⟩
    have hsum : idChecksum 0 = 0xB5 := idChecksum_zero
    have hninth : ¬ (0 : BitVec 72).extractLsb' 64 8 = 0xB5 := by decide
    rw [exec_idRead_run h, hexec, exec_idReadResult (checksumFailure_unlogged _), checksumFailure_idBitList,
      identified_idBitList, hsum, if_neg hninth]
    rfl
  · exact sampleBit_eq_none.1 (exec_idRead_honest hexec v hresult)

/-- Settles O16: each field's bits. -/
theorem idDecode : Obligations.IdDecode := by
  intro s h hwritten
  have hrun : exec .idDecode s = .next (Machine.idDecode s) :=
    operate_pnp h (rs := [.written .id]) (p := fun _ => .last Machine.idDecode)
      (by simpa [Req.holds, State.isWritten] using hwritten) (steady_last calm_idDecode)
  rw [hrun, Machine.idDecode, idVendor_eq, idProduct_eq, idSerial_eq]

/-- Settles O17: on dictated answers by what `ID.READ` leaves, on any others by how a round can end. -/
theorem isoRound : Obligations.IsoRound := by
  refine ⟨fun p first x rest s h hroom hanswers => ?_,
    fun p a b first bits rest s h hroom hlen hone hzero hanswers => ?_, fun p first s h hroom => ?_,
    fun p first s h hfull => exec_isoRound_full h hfull first⟩
  · intro reads n
    by_cases hsum : x.extractLsb' 64 8 = idChecksum x
    · obtain ⟨t, hports, hrest, hexec⟩ := exec_isoRound_found h hroom first hanswers hsum
      rw [if_pos hsum]
      exact ⟨t, hports, hrest, hexec.trans (congrArg _ (stored_identified (by rw [hports]) x))⟩
    · obtain ⟨t, hports, hrest, hexec⟩ := exec_isoRound_whole h hroom first x hanswers
      rw [if_neg hsum]
      refine ⟨t, hports, hrest, ?_⟩
      rw [hexec, checksumFailure_idBitList, if_neg hsum, exec_isoVerdict_some, identified_idBitList]
  · exact exec_isoRound_bad h hroom first hlen (sampleBit_eq_none.2 ⟨hone, hzero⟩) hanswers
  · have hmain : s.ctl.inIrq = false := h.1.1
    obtain ⟨es, bits, t, hports, hexec | hexec⟩ := exec_isoRound_cases h hroom first
    · exact ⟨_, hexec, .inl (stored_found hports hmain bits)⟩
    · exact ⟨_, hexec, .inr (noneFound_frame hports hmain bits)⟩

/-- Settles O18: each step by its own lemma. -/
theorem scanSteps : Obligations.ScanSteps := by
  refine ⟨fun s => exec_pnpEngine, fun s => exec_pnpEngine_refused, fun s h => ⟨exec_isoEnum h,
    fun k hk => runTask_enumAt h hk, runTask_enumAt_end h, fun k first found => ⟨fun hroom => ?_, fun hfull => ?_,
    fun hfound => ?_, fun hnot hany => ?_, fun hnot hnone => ?_⟩⟩⟩
  · rw [runTask_enumRounds h, if_pos hroom]
  · rw [runTask_enumRounds h, if_neg (Nat.not_lt.2 hfull), raise_logged rfl]
    rfl
  · rw [runTask_enumAfter h, if_pos hfound]
  · rw [runTask_enumAfter h, if_neg hnot, if_pos hany]
    rfl
  · rw [runTask_enumAfter h, if_neg hnot, hnone, if_neg Bool.false_ne_true]

end Sys2Proof.Isolation

/-! PROOFS. The resource decoder: the byte reader (O19 to O21), the records of the card itself (O23), the record headers
(O25) and the decode loop (O26). -/

namespace Sys2Proof.Machine

/-! ## One poll (41 R170) -/

/-- A card-register read: what it gave, and the state after it (40 R144). -/
def cfgRead (reg : Byte) (s : State) : Byte × State := ioRead8 s.rdPort (ioWrite8 Config.pnpAddressPort reg s)

theorem cfgRead_ports (reg : Byte) (s : State) :
    PortsOnly (cfgGet s.rdPort reg (cfgRead reg s).1) s (cfgRead reg s).2 :=
  portsOnly_trans (ioWrite8_ports _ _ s) (ioRead8_ports _ _)

theorem cfgRead_dictated (reg : Byte) {s : State} {a : Half} {rest : List Half} (h : s.bus.answers = a :: rest) :
    (cfgRead reg s).1 = lo a ∧ (cfgRead reg s).2.bus.answers = rest := ioRead8_dictated _ _ h

/-- The status of a poll. -/
def pollStatus (m : Numbers) (s : State) : Byte × State := cfgRead m.status s

/-- The data byte of a poll that is ready. -/
def pollData (m : Numbers) (s : State) : Byte × State := cfgRead m.resourceData (pollStatus m s).2

theorem pollStatus_ports (m : Numbers) (s : State) :
    PortsOnly (cfgGet s.rdPort m.status (pollStatus m s).1) s (pollStatus m s).2 := cfgRead_ports _ s

theorem pollData_ports (m : Numbers) (s : State) :
    PortsOnly (cfgGet s.rdPort m.status (pollStatus m s).1 ++ cfgGet s.rdPort m.resourceData (pollData m s).1) s
      (pollData m s).2 := portsOnly_trans (pollStatus_ports m s) (cfgRead_ports _ _)

theorem pollStatus_dictated (m : Numbers) {s : State} {st : Half} {rest : List Half}
    (h : s.bus.answers = st :: rest) :
    (pollStatus m s).1 = lo st ∧ (pollStatus m s).2.bus.answers = rest := cfgRead_dictated _ h

theorem pollData_dictated (m : Numbers) {s : State} {st v : Half} {rest : List Half}
    (h : s.bus.answers = st :: v :: rest) :
    (pollData m s).1 = lo v ∧ (pollData m s).2.bus.answers = rest :=
  cfgRead_dictated _ (pollStatus_dictated m h).2

section
variable {c : Params} {s : State}

/-- Bit 0 of the status decides between the data byte, summed and handed on, and `wait`. -/
theorem exec_rdPoll (c : Params) (ready : Byte → Prog) (wait : Prog) (s : State) :
    (rdPoll c ready wait).exec s =
      if (pollStatus c.num s).1.getLsbD 0 then
        (ready (pollData c.num s).1).exec (addCsum (pollData c.num s).1 (pollData c.num s).2)
      else wait.exec (pollStatus c.num s).2 := apply_ite (fun k : Prog => k.exec (pollStatus c.num s).2) _ _ _

theorem exec_rdPoll_ready (h : (pollStatus c.num s).1.getLsbD 0 = true) (ready : Byte → Prog) (wait : Prog) :
    (rdPoll c ready wait).exec s =
      (ready (pollData c.num s).1).exec (addCsum (pollData c.num s).1 (pollData c.num s).2) := by
  rw [exec_rdPoll, if_pos h]

theorem exec_rdPoll_wait (h : (pollStatus c.num s).1.getLsbD 0 = false) (ready : Byte → Prog) (wait : Prog) :
    (rdPoll c ready wait).exec s = wait.exec (pollStatus c.num s).2 := by
  rw [exec_rdPoll, if_neg (Bool.eq_false_iff.1 h)]

theorem getLsbD_lo_zero (a : Half) : (lo a).getLsbD 0 = a.getLsbD 0 := by simp [lo]

/-- A dictated status with bit 0 clear: one poll and no more. -/
theorem exec_rdPoll_notReady {st : Half} {rest : List Half} (hst : st.getLsbD 0 = false)
    (hanswers : s.bus.answers = st :: rest) (c : Params) :
    ∃ t, PortsOnly (cfgGet s.rdPort c.num.status (lo st)) s t ∧ t.bus.answers = rest ∧
      ∀ ready wait, (rdPoll c ready wait).exec s = wait.exec t := by
  obtain ⟨hvalue, hrest⟩ := pollStatus_dictated c.num hanswers
  have hports := pollStatus_ports c.num s
  rw [hvalue] at hports
  exact ⟨_, hports, hrest, exec_rdPoll_wait (by rw [hvalue, getLsbD_lo_zero, hst])⟩

/-- A dictated status with bit 0 set: the next answer is the data byte. -/
theorem exec_rdPoll_dictated {st v : Half} {rest : List Half} (hst : st.getLsbD 0 = true)
    (hanswers : s.bus.answers = st :: v :: rest) (c : Params) :
    ∃ t, PortsOnly (cfgGet s.rdPort c.num.status (lo st) ++ cfgGet s.rdPort c.num.resourceData (lo v)) s t ∧
      t.bus.answers = rest ∧
      ∀ ready wait, (rdPoll c ready wait).exec s = (ready (lo v)).exec (addCsum (lo v) t) := by
  obtain ⟨hvalue, -⟩ := pollStatus_dictated c.num hanswers
  obtain ⟨hbyte, hrest⟩ := pollData_dictated c.num hanswers
  have hports := pollData_ports c.num s
  have hexec := exec_rdPoll_ready (c := c) (s := s) (by rw [hvalue, getLsbD_lo_zero, hst])
  rw [hvalue, hbyte] at hports
  rw [hbyte] at hexec
  exact ⟨_, hports, hrest, hexec⟩

end

/-! ## Bytes of a ready card's stream -/

/-- From `s`, `t` is the state after the bytes `bs` of a ready card's stream were read at read port `p` and summed
(41 R170). -/
def StreamRead (m : Numbers) (p : Half) (bs : List Byte) (s t : State) : Prop :=
  PortsOnly (readyTrace m p bs) (addCsum (byteSum bs) s) t

theorem byteSum_eq_sum (bs : List Byte) : byteSum bs = bs.sum := List.sum_eq_foldl.symm

theorem byteSum_append (as bs : List Byte) : byteSum (as ++ bs) = byteSum as + byteSum bs := by
  simp only [byteSum_eq_sum, List.sum_append]

theorem byteSum_singleton (b : Byte) : byteSum [b] = b := by rw [byteSum_eq_sum, List.sum_singleton]

theorem readyTrace_append (m : Numbers) (p : Half) (as bs : List Byte) :
    readyTrace m p (as ++ bs) = readyTrace m p as ++ readyTrace m p bs := List.flatMap_append

/-- An update that neither looks at the bus nor changes it can be made before the port accesses. -/
theorem portsOnly_map {f : State → State} (hf : ∀ u b, f { u with bus := b } = { f u with bus := b })
    {es : List Event} {s t : State} (h : PortsOnly es s t) : PortsOnly es (f s) (f t) := by
  have hbus (u : State) : (f u).bus = u.bus := (congrArg State.bus (hf u u.bus) :)
  unfold PortsOnly at h ⊢
  rw [hbus s, hbus t, ← hf, ← h]

theorem portsOnly_addCsum {es : List Event} {s t : State} (h : PortsOnly es s t) (b : Byte) :
    PortsOnly es (addCsum b s) (addCsum b t) := portsOnly_map (fun _ _ => rfl) h

theorem portsOnly_setResult {es : List Event} {s t : State} (h : PortsOnly es s t) (r : Result) :
    PortsOnly es (setResult r s) (setResult r t) := portsOnly_map (fun _ _ => rfl) h

theorem addCsum_addCsum (a b : Byte) (s : State) : addCsum b (addCsum a s) = addCsum (a + b) s := by
  simp [addCsum, BitVec.add_assoc]

section
variable {m : Numbers} {p : Half} {s t u : State} {as bs : List Byte}

theorem streamRead_nil (m : Numbers) (p : Half) (s : State) : StreamRead m p [] s s := by
  have hsum : addCsum (byteSum []) s = s := by simp [addCsum, byteSum]
  rw [StreamRead, hsum]
  exact portsOnly_refl s

theorem streamRead_append (h : StreamRead m p as s t) (k : StreamRead m p bs t u) :
    StreamRead m p (as ++ bs) s u := by
  unfold StreamRead at *
  rw [readyTrace_append, byteSum_append, ← addCsum_addCsum]
  exact portsOnly_trans (portsOnly_addCsum h _) k

theorem streamRead_rdPort (h : StreamRead m p bs s t) : t.rdPort = s.rdPort :=
  portsOnly_rdPort (s := addCsum (byteSum bs) s) h

/-- The bytes can be summed after all the accesses. -/
theorem streamRead_accesses (h : StreamRead m p bs s t) :
    ∃ u, PortsOnly (readyTrace m p bs) s u ∧ u.bus.answers = t.bus.answers ∧ t = addCsum (byteSum bs) u := by
  unfold StreamRead PortsOnly at h
  refine ⟨{ t with dec := s.dec }, ?_, rfl, ?_⟩
  · rw [PortsOnly, h]
    rfl
  · rw [h]
    rfl

end

section
variable {p : Half} {s : State} {bs : List Byte} {rest : List Half}

/-- A poll of a ready card hands its next byte on. -/
theorem exec_rdPoll_byte {b : Byte} (hp : s.rdPort = p) (hanswers : s.bus.answers = readyAnswers (b :: bs) ++ rest)
    (c : Params) :
    ∃ t, StreamRead c.num p [b] s t ∧ t.bus.answers = readyAnswers bs ++ rest ∧
      ∀ ready wait, (rdPoll c ready wait).exec s = (ready b).exec t := by
  subst hp
  have hlo : lo (b.setWidth 16) = b := by simp [lo]
  obtain ⟨t, hports, hrest, hexec⟩ :=
    exec_rdPoll_dictated (by decide : (0x01 : Half).getLsbD 0 = true) hanswers c
  rw [hlo] at hports hexec
  refine ⟨addCsum b t, ?_, hrest, hexec⟩
  rw [StreamRead, byteSum_singleton]
  exact portsOnly_addCsum hports b

/-- A body of a ready card is its bytes, after those that were read of it before (41 R172). -/
theorem exec_readBody (hp : s.rdPort = p) (hanswers : s.bus.answers = readyAnswers bs ++ rest) (use : BodyUse)
    (c : Params) (got : List Byte) :
    ∃ t, StreamRead c.num p bs s t ∧ t.bus.answers = rest ∧
      (readBody use c bs.length got).exec s = (bodyDone use (got.reverse ++ bs) c).exec t := by
  induction bs generalizing s got with
  | nil => exact ⟨s, streamRead_nil _ _ s, hanswers, by rw [List.append_nil]; rfl⟩
  | cons b bs ih =>
    obtain ⟨t, hfirst, hanswers', hexec⟩ := exec_rdPoll_byte hp hanswers c
    obtain ⟨u, hbytes, hrest, hexec'⟩ := ih ((streamRead_rdPort hfirst).trans hp) hanswers' (b :: got)
    rw [List.reverse_cons, List.append_assoc] at hexec'
    exact ⟨u, streamRead_append hfirst hbytes, hrest, (hexec _ _).trans hexec'⟩

end

/-! ## `RD.BYTE`, `RD.HEADER` and `RD.BODY` -/

section
variable {p : Half} {s : State}

theorem readReqs_of_streamReady (h : StreamReady p s) : ∀ r ∈ readReqs, r.holds s = true := by
  obtain ⟨⟨-, hrdp, -⟩, hcsum⟩ := h
  simp [readReqs, Req.holds, State.isWritten, hrdp, hcsum]

theorem bodyReqs_of_streamReady (h : StreamReady p s) (n : Nat) : ∀ r ∈ bodyReqs n, r.holds s = true :=
  bodyReqs_holds h.1.2.1 h.2 n

theorem rdPort_of_streamReady (h : StreamReady p s) : s.rdPort = p := rdPort_of_portReady h.1

theorem pnpReady_of_streamReady (h : StreamReady p s) : PnpReady s := h.1.1

theorem exec_rdByte_run (h : StreamReady p s) : exec .rdByte s = .next ((rdByte s.cfg).exec s) :=
  operate_pnp (pnpReady_of_streamReady h) (readReqs_of_streamReady h) (steady_rdByte s.cfg)

theorem runTask_headerRest (h : StreamReady p s) (got : List Byte) :
    runTask (.headerRest got) s = .next ((headerRest got s.cfg).exec s) :=
  operate_pnp (pnpReady_of_streamReady h) (readReqs_of_streamReady h) (steady_headerRest got s.cfg)

theorem runTask_bodyRest (h : StreamReady p s) (use : BodyUse) (n : Nat) (got : List Byte) :
    runTask (.bodyRest use n got) s = .next ((readBody use s.cfg n got).exec s) :=
  operate_pnp (p := fun c => readBody use c n got) (pnpReady_of_streamReady h) (bodyReqs_of_streamReady h n)
    (steady_readBody use s.cfg n got)

theorem exec_rdBody_run (h : StreamReady p s) (len : Half) :
    exec (.rdBody len) s = .next ((rdBody len s.cfg).exec s) :=
  operate_pnp (pnpReady_of_streamReady h) (bodyReqs_of_streamReady h len.toNat)
    (steady_readBody .plain s.cfg len.toNat [])

/-- A guarded operation depends only on what its body does with this state. -/
theorem guarded_congr {f g : State → State} (h : f s = g s) (rs : List Req) : guarded rs f s = guarded rs g s := by
  induction rs with
  | nil => exact congrArg Host.Outcome.next h
  | cons r rs ih => simp only [guarded, ih]

/-- Where no handler run can start, the step that an operation stands in makes no difference. -/
theorem operate_anyTask {t t' : Task} {rs : List Req} {f : Params → Prog} (hf : Steady (f s.cfg)) (hq : Quiet s) :
    operate t rs f s = operate t' rs f s := by
  refine guarded_congr ?_ rs
  simp only [run_eq_exec (quietRun_of_steady hf hq)]

/-! ### Headers (41 R171) -/

/-- A header that is not read whole goes on with a poll, and waits as itself. -/
theorem headerRest_eq_rdPoll {got : List Byte} (h : got.length < 3) (c : Params) :
    ∃ ready, headerRest got c = rdPoll c ready (.last (push [.headerRest got])) := by
  match got, h with
  | [], _ => exact ⟨_, rfl⟩
  | [_], _ => exact ⟨_, rfl⟩
  | [_, _], _ => exact ⟨_, rfl⟩

variable {h l0 l1 : Byte} {rest : List Half}

theorem exec_headerHigh (hp : s.rdPort = p) (hanswers : s.bus.answers = readyAnswers [l1] ++ rest) (h l0 : Byte)
    (c : Params) :
    ∃ t, StreamRead c.num p [l1] s t ∧ t.bus.answers = rest ∧
      (headerHigh h l0 c).exec s = setResult (.header .large h (l1 ++ l0)) t := by
  obtain ⟨t, hread, hrest, hexec⟩ := exec_rdPoll_byte hp hanswers c
  exact ⟨t, hread, hrest, hexec _ _⟩

theorem exec_headerLow (hp : s.rdPort = p) (hanswers : s.bus.answers = readyAnswers [l0, l1] ++ rest) (h : Byte)
    (c : Params) :
    ∃ t, StreamRead c.num p [l0, l1] s t ∧ t.bus.answers = rest ∧
      (headerLow h c).exec s = setResult (.header .large h (l1 ++ l0)) t := by
  obtain ⟨t, hlow, hanswers', hexec⟩ := exec_rdPoll_byte hp hanswers c
  obtain ⟨u, hhigh, hrest, hexec'⟩ := exec_headerHigh ((streamRead_rdPort hlow).trans hp) hanswers' h l0 c
  exact ⟨u, streamRead_append hlow hhigh, hrest, (hexec _ _).trans hexec'⟩

theorem exec_rdHeader_large (hlarge : h.getLsbD 7 = true) (hp : s.rdPort = p)
    (hanswers : s.bus.answers = readyAnswers [h, l0, l1] ++ rest) (c : Params) :
    ∃ t, StreamRead c.num p [h, l0, l1] s t ∧ t.bus.answers = rest ∧
      (rdHeader c).exec s = setResult (.header .large h (l1 ++ l0)) t := by
  obtain ⟨t, hfirst, hanswers', hexec⟩ := exec_rdPoll_byte hp hanswers c
  obtain ⟨u, hlength, hrest, hexec'⟩ := exec_headerLow ((streamRead_rdPort hfirst).trans hp) hanswers' h c
  have hform : headerForm h c = headerLow h c := if_pos hlarge
  exact ⟨u, streamRead_append hfirst hlength, hrest, (hexec _ _).trans (hform ▸ hexec')⟩

theorem exec_rdHeader_small (hsmall : h.getLsbD 7 = false) (hp : s.rdPort = p)
    (hanswers : s.bus.answers = readyAnswers [h] ++ rest) (c : Params) :
    ∃ t, StreamRead c.num p [h] s t ∧ t.bus.answers = rest ∧
      (rdHeader c).exec s = setResult (.header .small (smallTag h) ((smallLen h).setWidth 16)) t := by
  obtain ⟨t, hfirst, hrest, hexec⟩ := exec_rdPoll_byte hp hanswers c
  have hform : headerForm h c = .answer (.header .small (smallTag h) ((smallLen h).setWidth 16)) :=
    if_neg (Bool.eq_false_iff.1 hsmall)
  exact ⟨t, hfirst, hrest, (hexec _ _).trans (congrArg (Prog.exec · t) hform)⟩

/-- The rest of a large header, after any of its bytes. -/
theorem exec_headerRest_large {got bs : List Byte} (hlarge : h.getLsbD 7 = true) (hbytes : got ++ bs = [h, l0, l1])
    (hmore : bs ≠ []) (hp : s.rdPort = p) (hanswers : s.bus.answers = readyAnswers bs ++ rest) (c : Params) :
    ∃ t, StreamRead c.num p bs s t ∧ t.bus.answers = rest ∧
      (headerRest got c).exec s = setResult (.header .large h (l1 ++ l0)) t := by
  match got with
  | [] =>
    obtain rfl : bs = [h, l0, l1] := hbytes
    exact exec_rdHeader_large hlarge hp hanswers c
  | [a] =>
    obtain ⟨rfl, rfl⟩ : a = h ∧ bs = [l0, l1] := by simpa using hbytes
    exact exec_headerLow hp hanswers a c
  | [a, b] =>
    obtain ⟨rfl, rfl, rfl⟩ : a = h ∧ b = l0 ∧ bs = [l1] := by simpa using hbytes
    exact exec_headerHigh hp hanswers a b c
  | _ :: _ :: _ :: got =>
    have hnil : got ++ bs = [] := by simpa using congrArg (List.drop 3) hbytes
    exact absurd (List.append_eq_nil_iff.1 hnil).2 hmore

theorem runTask_headerRest_large {got bs : List Byte} (hs : StreamReady p s) (hlarge : h.getLsbD 7 = true)
    (hbytes : got ++ bs = [h, l0, l1]) (hmore : bs ≠ []) (hanswers : s.bus.answers = readyAnswers bs ++ rest) :
    ∃ t, PortsOnly (readyTrace s.cfg.num p bs) s t ∧ t.bus.answers = rest ∧
      runTask (.headerRest got) s =
        .next (setResult (.header .large h (l1 ++ l0)) (addCsum (byteSum bs) t)) := by
  obtain ⟨t, hread, hrest, hexec⟩ :=
    exec_headerRest_large hlarge hbytes hmore (rdPort_of_streamReady hs) hanswers s.cfg
  obtain ⟨u, hports, hsame, rfl⟩ := streamRead_accesses hread
  exact ⟨u, hports, hsame.trans hrest, (runTask_headerRest hs got).trans (congrArg _ hexec)⟩

/-- A header is begun as one of which nothing was read. -/
theorem exec_rdHeader_eq_headerRest (hs : PnpReady s) : exec .rdHeader s = runTask (.headerRest []) s := by
  obtain ⟨-, -, hquiet⟩ := hs
  exact operate_anyTask (steady_rdHeader s.cfg) hquiet

theorem smallLen_setWidth (h : Byte) : (smallLen h).setWidth 16 = (h.extractLsb' 0 3).setWidth 16 := by
  rw [smallLen_eq]
  simp

end

/-! ## Records of the card itself (41 R173, R174, R179, R180) -/

section
variable {d : Nat} {s : State}

/-- A change of a card's data depends only on what it makes of that data. -/
theorem modCrd_congr {i : Nat} {f g : Crd → Crd} (h : f (s.device i).crd = g (s.device i).crd) :
    modCrd i f s = modCrd i g s := by
  have hdevice : { s.device i with crd := f (s.device i).crd } = { s.device i with crd := g (s.device i).crd } := by
    rw [h]
  unfold modCrd
  congr 1
  exact modify_congr_getD (d := Device.empty) hdevice

theorem readDevice_there {i : Nat} (h : i < s.dev.length) : readDevice i s = (s.device i, s) := if_pos h

theorem cardLdcount_there (hcard : s.card = d) (hd : d < s.dev.length) :
    cardLdcount s = (.nat (s.device d).crd.lds.length, s) := by
  rw [cardLdcount, hcard, readDevice_there hd]

theorem curldOf_fin (j : Fin 4) : curldOf j = .index j := dif_pos j.isLt

theorem recVersion_exec (hcard : s.card = d) (body : List Byte) (c : Params) :
    (recVersion body c).exec s =
      modCrd d (fun x => { x with version := field body 0, vendorVersion := field body 1 }) s := by
  subst hcard
  exact modCrd_modCrd s s.card (fun x => { x with vendorVersion := field body 1 })
    (fun x => { x with version := field body 0 })

theorem modCrd_addLd {i : Nat} (h : (s.device i).crd.lds.length < Config.ldCap) (l : LogicalDevice) :
    modCrd i (fun x => { x with lds := addEntry Config.ldCap x.lds l }) s =
      modCrd i (fun x => { x with lds := x.lds ++ [l] }) s := modCrd_congr (by simp only [addEntry_of_lt h])

/-- A logical device with room for it becomes the current one, its configuration registers counted from the first
(41 R174). -/
theorem recLogdev_room (hcard : s.card = d) (hd : d < s.dev.length) {j : Fin 4}
    (hj : (s.device d).crd.lds.length = j) (body : List Byte) (c : Params) :
    (recLogdev body c).exec s =
      setIrqcfg Config.irqCfgBase (setIocfg Config.ioCfgBase (setCurld (.index j)
        (modCrd d (fun x => { x with
            lds := x.lds ++ [{ LogicalDevice.empty with id := fieldId body, flags := field body 4 }] })
          { s with fresh := none }))) := by
  have hroom : (s.device d).crd.lds.length < Config.ldCap := hj ▸ j.isLt
  simp only [recLogdev, Prog.exec, cardLdcount_there hcard hd, Val.toNat, if_neg (Nat.not_le.2 hroom)]
  rw [exec_newLd, hcard, hj, curldOf_fin, modCrd_addLd hroom]
  rfl

/-- The fifth is dropped (41 R174). -/
theorem recLogdev_full (hcard : s.card = d) (hd : d < s.dev.length) (hfull : 4 ≤ (s.device d).crd.lds.length)
    (body : List Byte) (c : Params) :
    (recLogdev body c).exec s = setCurld .overflow (logFailure .capacityLogicalDevice s) := by
  rw [recLogdev, Prog.exec, cardLdcount_there hcard hd]
  exact congrArg (Prog.exec · s) (if_pos hfull)

theorem exec_recVersion (h : DecodingAt d s) (body : List Byte) :
    exec (.recVersion body) s = .next ((recVersion body s.cfg).exec s) :=
  operate_pnp (rs := [.decoding]) h.1 (by simp [Req.holds, h.2.1]) (steady_runRecord .version body s.cfg)

theorem exec_recLogdev (h : DecodingAt d s) (body : List Byte) :
    exec (.recLogdev body) s = .next ((recLogdev body s.cfg).exec s) :=
  operate_pnp (rs := [.decoding]) h.1 (by simp [Req.holds, h.2.1]) (steady_runRecord .logdev body s.cfg)

theorem exec_recAnsi (h : CanAttach d s) (body : List Byte) :
    exec (.recAnsi body) s = .next ((recAnsi body s.cfg).exec s) :=
  operate_attach h (steady_runRecord .ansi body s.cfg)

theorem endReqs_hold {body : List Byte} (h : s.wr.csum = true ∨ body.getD 0 0 = 0#8) :
    ∀ r ∈ endReqs body, r.holds s = true := by
  unfold endReqs
  split
  · exact nofun
  · next hbyte => exact List.forall_mem_singleton.2 (h.resolve_right hbyte)

theorem exec_recEnd (h : PnpReady s) {body : List Byte} (hsum : s.wr.csum = true ∨ body.getD 0 0 = 0#8) :
    exec (.recEnd body) s = .next ((recEnd body s.cfg).exec s) :=
  operate_pnp h (endReqs_hold hsum) (steady_runRecord .endTag body s.cfg)

theorem endPasses_iff (body : List Byte) (s : State) :
    endPasses body s = true ↔ body.getD 0 0 = 0#8 ∨ s.dec.csum = 0#8 := by
  simp [endPasses, field]

theorem recEnd_exec (body : List Byte) (c : Params) (s : State) :
    (recEnd body c).exec s =
      setResult (if body.getD 0 0 = 0#8 ∨ s.dec.csum = 0#8 then .pass else .fail) s := by
  rw [recEnd, exec_last, if_congr (endPasses_iff body s) rfl rfl]

end

/-! ## Record headers (41 R184, R186) -/

/-- The operation of a record (30 R110). -/
def RecKind.operation (k : RecKind) (body : List Byte) : Instr :=
  match k with
  | .version => .recVersion body
  | .logdev => .recLogdev body
  | .compat => .recCompat body
  | .irq => .recIrq body
  | .dma => .recDma body
  | .ioport => .recIoport body
  | .ansi => .recAnsi body
  | .endTag => .recEnd body
  | .mem => .recMem body
  | .mem32 => .recMem32 body

/-- The lengths that a record is expected to have, any where there is no list (41 R186). -/
def RecKind.lengths : RecKind → Option (List Nat)
  | .version => some [2]
  | .logdev => some [5, 6]
  | .compat => some [4]
  | .irq => some [2, 3]
  | .dma => some [2]
  | .ioport => some [7]
  | .ansi => none
  | .endTag => some [1]
  | .mem => some [9]
  | .mem32 => some [17]

theorem expects_eq_lengths (k : RecKind) (n : Nat) : k.expects n = k.lengths.all fun l => decide (n ∈ l) := by
  cases k <;> simp [RecKind.expects, RecKind.lengths]

/-- Whether the record is a memory range. -/
def RecKind.isMemory : RecKind → Bool
  | .mem | .mem32 => true
  | _ => false

section
variable {d : Nat} {p : Half} {s u : State} {k : RecKind} {bs : List Byte} {rest : List Half}

/-- The record's operation runs the record's parts there. -/
def RunsRecord (k : RecKind) (body : List Byte) (s : State) : Prop :=
  exec (k.operation body) s = .next ((runRecord k body s.cfg).exec s)

theorem runsRecord_of_decoding (h : DecodingAt d s) (hsum : s.wr.csum = true)
    (hmem : k.isMemory = true → s.cfg.memRecords = .storeRaw) (body : List Byte) : RunsRecord k body s := by
  have ha : CanAttach d s := canAttach_of_decoding h
  cases k with
  | version => exact exec_recVersion h body
  | logdev => exact exec_recLogdev h body
  | compat => exact exec_recCompat ha body
  | irq => exact exec_recIrq ha body
  | dma => exact exec_recDma ha body
  | ioport => exact exec_recIoport ha body
  | ansi => exact exec_recAnsi ha body
  | endTag => exact exec_recEnd h.1 (.inl hsum)
  | mem =>
    rw [RunsRecord, runRecord, recMem, recMemory_storeRaw (hmem rfl)]
    exact exec_recMem_storeRaw ha (hmem rfl) body
  | mem32 =>
    rw [RunsRecord, runRecord, recMem32, recMemory_storeRaw (hmem rfl)]
    exact exec_recMem32_storeRaw ha (hmem rfl) body

/-- `u` meets every precondition of a record that `s` meets: they differ in the traffic, the sum, the log and the
result at most. -/
structure SameFooting (s u : State) : Prop where
  cfg : u.cfg = s.cfg
  iso : u.iso = s.iso
  fl : u.fl = s.fl
  wr : u.wr = s.wr
  dev : u.dev = s.dev
  card : u.dec.card = s.dec.card
  inIrq : u.ctl.inIrq = s.ctl.inIrq

theorem sameFooting_afterBody (h : AfterBody p bs s u) : SameFooting s u := by
  obtain ⟨hcfg, hiso, hdec, hdev, -, -, -, -, hfl, -, -, -, hwr, hctl, -⟩ := portsOnly_frame h
  constructor <;> simp [hcfg, hiso, hdec, hdev, hfl, hwr, hctl]

theorem SameFooting.log (h : SameFooting s u) (l : List Failure) : SameFooting s { u with log := l } :=
  ⟨h.cfg, h.iso, h.fl, h.wr, h.dev, h.card, h.inIrq⟩

theorem SameFooting.pnpReady (h : SameFooting s u) (hs : PnpReady s) : PnpReady u := by
  simpa [PnpReady, Quiet, State.deliverable, h.iso, h.fl, h.inIrq] using hs

theorem SameFooting.decodingAt (h : SameFooting s u) (hs : DecodingAt d s) : DecodingAt d u := by
  obtain ⟨hready, hcard, hd, hcurld⟩ := hs
  exact ⟨h.pnpReady hready, h.card.trans hcard, h.dev ▸ hd, h.wr ▸ hcurld⟩

/-- The parts of a record header whose body is read: the length check, then the record's (41 R184, R186). -/
theorem exec_readRecord (hp : s.rdPort = p) (hanswers : s.bus.answers = readyAnswers bs ++ rest) (k : RecKind) :
    ∃ u, AfterBody p bs s u ∧ (readRecord k bs.length s.cfg).exec s = (recordDone k bs s.cfg).exec u := by
  obtain ⟨t, hread, -, hexec⟩ := exec_readBody hp hanswers (.record k) s.cfg []
  exact ⟨setResult (.body bs) t, portsOnly_setResult hread _, hexec⟩

/-- A header that reads its body is the row of 41 R184, where the record's operation runs after the body. -/
theorem recordRow_of_run {row : Instr} (hp : s.rdPort = p) (hanswers : s.bus.answers = readyAnswers bs ++ rest)
    (hrow : exec row s = .next ((readRecord k bs.length s.cfg).exec s))
    (hrecord : ∀ u, SameFooting s u → RunsRecord k bs u) :
    RecordRow row (k.operation bs) (k.tag s.cfg.num) k.lengths p bs s := by
  obtain ⟨u, hbody, hexec⟩ := exec_readRecord hp hanswers k
  have hsame : SameFooting s u := sameFooting_afterBody hbody
  have hrun (v : State) (hv : SameFooting s v) :
      exec (k.operation bs) v = .next ((runRecord k bs s.cfg).exec v) := hv.cfg ▸ hrecord v hv
  refine ⟨u, hbody, ?_⟩
  rw [← expects_eq_lengths, hrow, hexec, recordDone]
  cases k.expects bs.length with
  | true => exact ⟨_, rfl, hrun u hsame⟩
  | false =>
    cases s.cfg.lenMismatchFatal with
    | true =>
      refine congrArg Host.Outcome.next ((raise_logged rfl _).trans ?_)
      simp [logFailure]
    | false => exact ⟨_, rfl, hrun _ (hsame.log _)⟩

theorem recKind_reqs_of_decoding (h : DecodingAt d s) (k : RecKind) : ∀ r ∈ k.reqs, r.holds s = true := by
  obtain ⟨-, hcard, -, hcurld⟩ := h
  cases k <;> simp [RecKind.reqs, Req.holds, State.isWritten, hcard, hcurld]

theorem recordReqs_of_decoding (h : DecodingAt d s) (hs : StreamReady p s) (k : RecKind) (n : Nat) :
    ∀ r ∈ bodyReqs n ++ (if k.expects n || !s.cfg.lenMismatchFatal then k.reqs else []), r.holds s = true := by
  refine List.forall_mem_append.2 ⟨bodyReqs_of_streamReady hs n, ?_⟩
  split
  · exact recKind_reqs_of_decoding h k
  · exact nofun

/-- The header of a record on a ready card, whose meaning is to read the record. -/
theorem recordRow_decoding {row : Instr} {t : Task} {f : Params → Prog} {n : Nat} (h : DecodingAt d s)
    (hs : StreamReady p s) (hanswers : s.bus.answers = readyAnswers bs ++ rest) (hn : n = bs.length)
    (hmem : k.isMemory = true → s.cfg.memRecords = .storeRaw)
    (hf : f s.cfg = readRecord k n s.cfg) (hrow : exec row s = operate t (recordReqs k n s) f s) :
    RecordRow row (k.operation bs) (k.tag s.cfg.num) k.lengths p bs s := by
  refine recordRow_of_run (rdPort_of_streamReady hs) hanswers ?_ fun u hu =>
    runsRecord_of_decoding (hu.decodingAt h) ?_ (fun hk => ?_) bs
  · subst hn
    rw [hrow, recordReqs_eq, operate_pnp h.1 (recordReqs_of_decoding h hs k _) (hf ▸ steady_readBody _ _ _ _), hf]
  · exact hu.wr ▸ hs.2
  · exact hu.cfg ▸ hmem hk

/-- A memory-range header is one where memory ranges are stored (41 R181, R182). -/
theorem recordRow_memory {row : Instr} {t : Task} {f : Params → Prog} {len : Half} (h : DecodingAt d s)
    (hs : StreamReady p s) (hanswers : s.bus.answers = readyAnswers bs ++ rest) (hlen : len.toNat = bs.length)
    (hmem : s.cfg.memRecords = .storeRaw) (hf : f s.cfg = memoryRecord k len s.cfg)
    (hrow : exec row s = operate t (memoryRecordReqs k len s) f s) :
    RecordRow row (k.operation bs) (k.tag s.cfg.num) k.lengths p bs s :=
  recordRow_decoding (f := f) h hs hanswers hlen (fun _ => hmem) (by rw [hf]; simp only [memoryRecord, hmem])
    (by rw [hrow, memoryRecordReqs_storeRaw hmem])

/-- An end tag without a checksum byte reads nothing and looks at no card (41 R172, R180). -/
theorem recordRow_tagEnd_zero (h : PnpReady s) (p : Half) :
    RecordRow (.tagEnd 0) (.recEnd []) s.cfg.num.tagEnd (some [1]) p [] s := by
  have hreqs : recordReqs .endTag 0 s = [.mainContext, .key] := by simp [recordReqs, bodyReqs, RecKind.reqs]
  have hrow : exec (.tagEnd 0) s = .next ((readRecord .endTag 0 s.cfg).exec s) := by
    show operate _ (recordReqs .endTag 0 s) (fun c => readRecord .endTag 0 c) s = _
    rw [hreqs]
    exact operate_pnp (rs := []) h nofun (steady_readBody _ _ _ _)
  have hany : RecordRow (.tagEnd 0) (.recEnd []) s.cfg.num.tagEnd (some [1]) s.rdPort [] s :=
    recordRow_of_run (k := .endTag) (bs := []) (rest := s.bus.answers) rfl rfl hrow fun u hu =>
      exec_recEnd (hu.pnpReady h) (.inr rfl)
  exact hany

end

/-- An unrecognised header raises `UnknownTag` (41 R183). -/
theorem unknownRecord_eq {s : State} (h : PnpReady s) (i : Instr) (form : RecForm) (tag : Byte) :
    unknownRecord i form tag s =
      .next (setResult (.failed (.unknownTag form tag)) { s with log := s.log ++ [.unknownTag form tag] }) :=
  operate_pnp (rs := []) h nofun steady_fail

/-- So does a memory-range header where memory ranges are not kept (30 R121; log 20). -/
theorem operate_memoryRecord_reject {s : State} {t : Task} {f : Params → Prog} {k : RecKind} {len : Half}
    (h : PnpReady s) (hm : s.cfg.memRecords = .reject) (hf : f s.cfg = memoryRecord k len s.cfg) :
    operate t (memoryRecordReqs k len s) f s = .next (setResult (.failed (.unknownTag .large (k.tag s.cfg.num)))
      { s with log := s.log ++ [.unknownTag .large (k.tag s.cfg.num)] }) := by
  have hreqs : memoryRecordReqs k len s = [.mainContext, .key] := by simp only [memoryRecordReqs, hm]
  have hprog : f s.cfg = recUnknown .large (k.tag s.cfg.num) s.cfg := by rw [hf]; simp only [memoryRecord, hm]
  rw [hreqs, operate_pnp (rs := []) h nofun (hprog ▸ steady_fail), hprog]
  rfl

/-! ## The decode loop (41 R184) -/

section
variable {s : State}

theorem exec_rdDecode (h : PnpReady s) (i : Byte) :
    exec (.rdDecode i) s = .next (push decodeTurn (setCurld .none (setCard i.toNat s))) :=
  operate_pnp (rs := []) h nofun <| steady_upd (fun _ => ⟨rfl, rfl, rfl⟩) <|
    steady_upd (fun _ => ⟨rfl, rfl, rfl⟩) <| steady_last (calm_push _)

theorem runTask_decodeDispatch (h : PnpReady s) : runTask .decodeDispatch s = .next (decodeDispatch s) :=
  guarded_run (by simp [Req.holds, h.1, h.2.1])

theorem runTask_decodeNext (h : PnpReady s) {d : Nat} (hcard : s.dec.card = some d) :
    runTask .decodeNext s = .next (decodeNext s) := guarded_run (by simp [Req.holds, h.1, h.2.1, hcard])

theorem decodeDispatch_header {form : RecForm} {tag : Byte} {len : Half} (h : s.result = .header form tag len) :
    decodeDispatch s = push [.op (recordInstr s.cfg.num form tag len)] s := by simp only [decodeDispatch, h]

theorem decodeNext_failed {f : Failure} (h : s.result = .failed f) : decodeNext s = s := by simp only [decodeNext, h]

theorem decodeNext_pass (h : s.result = .pass) :
    decodeNext s = setResult .ok (modCrd s.card (fun c => { c with valid := true }) s) := by
  simp only [decodeNext, h]

theorem decodeNext_fail (h : s.result = .fail) : decodeNext s = raise (.resourceChecksum s.dec.csum) s := by
  simp only [decodeNext, h]

theorem decodeNext_other (hfailed : ∀ f, s.result ≠ .failed f) (hpass : s.result ≠ .pass)
    (hfail : s.result ≠ .fail) : decodeNext s = push decodeTurn s := by
  unfold decodeNext
  split
  · next f hf => exact absurd hf (hfailed f)
  · next hp => exact absurd hp hpass
  · next hf => exact absurd hf hfail
  · rfl

end

end Sys2Proof.Machine

/-! What the statements say of the resource decoder, each from the lemmas above. -/

namespace Sys2Proof.Decoder

open Machine

/-- Settles O19: on any answers by the two outcomes of a poll, on a dictated ready status by that of a ready card. -/
theorem rdByte : Obligations.RdByte := by
  refine fun p s h => ⟨?_, fun st v rest hanswers hst => ?_⟩
  · have hp : s.rdPort = p := rdPort_of_streamReady h
    refine ⟨(pollStatus s.cfg.num s).1, if (pollStatus s.cfg.num s).1.getLsbD 0 then (pollData s.cfg.num s).2
      else (pollStatus s.cfg.num s).2, fun a rest hanswers => (pollStatus_dictated _ hanswers).1, ?_⟩
    cases hst : (pollStatus s.cfg.num s).1.getLsbD 0 with
    | true =>
      exact .inl ⟨rfl, _, hp ▸ pollData_ports s.cfg.num s,
        (exec_rdByte_run h).trans (congrArg _ (exec_rdPoll_ready hst _ _))⟩
    | false =>
      exact .inr ⟨rfl, hp ▸ pollStatus_ports s.cfg.num s,
        (exec_rdByte_run h).trans (congrArg _ (exec_rdPoll_wait hst _ _))⟩
  · obtain ⟨t, hports, hrest, hexec⟩ := exec_rdPoll_dictated hst hanswers s.cfg
    exact ⟨t, rdPort_of_streamReady h ▸ hports, hrest, (exec_rdByte_run h).trans (congrArg _ (hexec _ _))⟩

/-- Settles O20: a small header by its one byte, a large one by the bytes still to come. -/
theorem rdHeader : Obligations.RdHeader := by
  refine ⟨fun p h rest s hs h7 hanswers => ?_, fun p h l0 l1 rest s hs h7 hanswers => ?_,
    fun p h l0 l1 got bs rest s => runTask_headerRest_large, fun p st got rest s hs hgot hst hanswers => ?_,
    fun s => exec_rdHeader_eq_headerRest⟩
  · obtain ⟨t, hread, hrest, hexec⟩ := exec_rdHeader_small h7 (rdPort_of_streamReady hs) hanswers s.cfg
    obtain ⟨u, hports, hsame, rfl⟩ := streamRead_accesses hread
    rw [byteSum_singleton, smallTag_eq, smallLen_setWidth] at hexec
    exact ⟨u, hports, hsame.trans hrest,
      (exec_rdHeader_eq_headerRest (pnpReady_of_streamReady hs)).trans
        ((runTask_headerRest hs []).trans (congrArg _ hexec))⟩
  · obtain ⟨t, hports, hrest, hexec⟩ :=
      runTask_headerRest_large (got := []) hs h7 rfl (List.cons_ne_nil _ _) hanswers
    exact ⟨t, hports, hrest, (exec_rdHeader_eq_headerRest (pnpReady_of_streamReady hs)).trans hexec⟩
  · obtain ⟨ready, hpoll⟩ := headerRest_eq_rdPoll hgot s.cfg
    obtain ⟨t, hports, hrest, hexec⟩ := exec_rdPoll_notReady hst hanswers s.cfg
    exact ⟨t, rdPort_of_streamReady hs ▸ hports, hrest,
      (runTask_headerRest hs got).trans (congrArg _ (hpoll ▸ hexec _ _))⟩

/-- Settles O21: the bytes by induction, the wait by a poll that is not ready. -/
theorem rdBody : Obligations.RdBody := by
  refine ⟨fun p len bs rest s h hlen hanswers => ?_, fun p got bs rest s h hanswers => ?_,
    fun p st use n got rest s h hst hanswers => ?_, fun s h => rdBody_zero h⟩
  · obtain ⟨t, hread, hrest, hexec⟩ := exec_readBody (rdPort_of_streamReady h) hanswers .plain s.cfg []
    rw [hlen] at hexec
    exact ⟨setResult (.body bs) t, portsOnly_setResult hread _, hrest,
      (exec_rdBody_run h len).trans (congrArg _ hexec)⟩
  · obtain ⟨t, hread, hrest, hexec⟩ := exec_readBody (rdPort_of_streamReady h) hanswers .plain s.cfg got
    obtain ⟨u, hports, hsame, rfl⟩ := streamRead_accesses hread
    exact ⟨u, hports, hsame.trans hrest, (runTask_bodyRest h .plain bs.length got).trans (congrArg _ hexec)⟩
  · obtain ⟨t, hports, hrest, hexec⟩ := exec_rdPoll_notReady hst hanswers s.cfg
    exact ⟨t, rdPort_of_streamReady h ▸ hports, hrest,
      (runTask_bodyRest h use (n + 1) got).trans (congrArg _ (hexec _ _))⟩

/-- Settles O23: each record by what its parts do to the card's data. -/
theorem cardRecords : Obligations.CardRecords := by
  refine ⟨fun d body s h => ?_, fun s h => ⟨fun body hsum => ?_, fun form tag => exec_recUnknown h form tag⟩⟩
  · have hansi := exec_recAnsi (canAttach_of_decoding h) body
    obtain ⟨hcard, hd⟩ : s.card = d ∧ d < s.dev.length := ⟨card_eq h.2.1, h.2.2.1⟩
    refine ⟨?_, fun j hj => ?_, fun hfull => ?_, fun hnone => ?_, fun j hj => ?_, fun hover => ?_⟩
    · rw [exec_recVersion h, recVersion_exec hcard]
      rfl
    · rw [exec_recLogdev h, recLogdev_room hcard hd hj]
      rfl
    · rw [exec_recLogdev h, recLogdev_full hcard hd hfull]
      rfl
    · rw [hansi, recAnsi, exec_curld, hnone, ← hcard]
      rfl
    · rw [hansi, recAnsi, exec_curld, hj, ← hcard]
      rfl
    · rw [hansi, recAnsi, exec_curld, hover]
      rfl
  · rw [exec_recEnd h hsum, recEnd_exec]

/-- Settles O25: every row that reads a body by the same lemma, the others by theirs. -/
theorem recordHeaders : Obligations.RecordHeaders := by
  refine ⟨fun d p bs rest s h hs hanswers => ⟨fun hlen => ?_, fun hlen => ?_⟩,
    fun s h => recordRow_tagEnd_zero h 0,
    fun s h => ⟨fun len => ?_, fun tag len => unknownRecord_eq h _ _ _, fun hm len => ?_⟩⟩
  · have hn : (BitVec.ofNat 3 bs.length).toNat = bs.length := Nat.mod_eq_of_lt (Nat.lt_succ_of_le hlen)
    exact ⟨recordRow_decoding (k := .version) h hs hanswers hn nofun rfl rfl,
      recordRow_decoding (k := .logdev) h hs hanswers hn nofun rfl rfl,
      recordRow_decoding (k := .compat) h hs hanswers hn nofun rfl rfl,
      recordRow_decoding (k := .irq) h hs hanswers hn nofun rfl rfl,
      recordRow_decoding (k := .dma) h hs hanswers hn nofun rfl rfl,
      recordRow_decoding (k := .ioport) h hs hanswers hn nofun rfl rfl,
      recordRow_decoding (k := .endTag) h hs hanswers hn nofun rfl rfl⟩
  · have hn : (BitVec.ofNat 16 bs.length).toNat = bs.length := Nat.mod_eq_of_lt hlen
    exact ⟨recordRow_decoding (k := .ansi) h hs hanswers hn nofun rfl rfl, fun hm =>
      ⟨recordRow_memory (k := .mem) h hs hanswers hn hm rfl rfl,
        recordRow_memory (k := .mem32) h hs hanswers hn hm rfl rfl⟩⟩
  · exact ⟨unknownRecord_eq h _ _ _, unknownRecord_eq h _ _ _, unknownRecord_eq h _ _ _, unknownRecord_eq h _ _ _,
      unknownRecord_eq h _ _ _, unknownRecord_eq h _ _ _, unknownRecord_eq h _ _ _, unknownRecord_eq h _ _ _,
      unknownRecord_eq h _ _ _⟩
  · exact ⟨operate_memoryRecord_reject (k := .mem) h hm rfl, operate_memoryRecord_reject (k := .mem32) h hm rfl⟩

/-- Settles O26: the loop's two own steps by the result they meet. -/
theorem decodeLoop : Obligations.DecodeLoop := by
  refine ⟨fun i s h => exec_rdDecode h i, fun form tag len s h hresult => ?_, fun d s h hcard => ?_⟩
  · rw [runTask_decodeDispatch h, decodeDispatch_header hresult]
  · rw [runTask_decodeNext h hcard]
    refine ⟨fun f hf => ?_, fun hpass => ?_, fun hfail => ?_, fun hfailed hpass hfail => ?_⟩
    · rw [decodeNext_failed hf]
    · rw [decodeNext_pass hpass, card_eq hcard]
    · rw [decodeNext_fail hfail, raise_logged rfl]
      rfl
    · rw [decodeNext_other hfailed hpass hfail]
      rfl

end Sys2Proof.Decoder

/-! PROOFS. The allocator: `CFG.MATCH` (O27), the register writes of its operations (O28), the probe (O29), the search
for an I/O base (O30, O31), a whole device (O32) and all of them (O33). A part that can fail hands on whether it
succeeded; what it does is stated once, for whatever comes after it. -/

namespace Sys2Proof.Machine

/-- From `s` the parts `p` hand `a` on and end in `u`, whatever comes after them. -/
def HandsOn {α : Type} (p : (α → Prog) → Prog) (s : State) (a : α) (u : State) : Prop :=
  ∀ next, (p next).exec s = (next a).exec u

/-! ## The probe (42 R203) -/

/-- The reads of ports that all float. -/
def floatingReads (ports : List Half) : List Event := ports.map fun p => .rd8 p 0xFF

/-- The reads of ports up to the first that does not float. -/
def StopsIn (ports : List Half) (es : List Event) : Prop :=
  ∃ pre p post v, ports = pre ++ p :: post ∧ v ≠ 0xFF ∧ es = floatingReads pre ++ [.rd8 p v]

/-- The reads of a sweep of `ports` that found them clean, or not. -/
def SweptAs (ports : List Half) : Bool → List Event → Prop
  | true, es => es = floatingReads ports
  | false, es => StopsIn ports es

section
variable {passes len : Nat} {base : Half} {es : List Event}

theorem cleanProbe_of_swept (h : SweptAs (probeOrder passes base len) true es) : es = cleanProbe passes base len := h

theorem occupiedProbe_of_swept (h : SweptAs (probeOrder passes base len) false es) :
    OccupiedProbe passes base len es := h

end

theorem length_probeOrder (passes : Nat) (base : Half) (len : Nat) :
    (probeOrder passes base len).length = 2 * len * passes := by
  simp only [probeOrder, List.length_flatten, List.map_replicate, List.sum_replicate, List.length_append,
    List.length_reverse, List.length_map, List.length_range, smul_eq_mul]
  ring

theorem sweptAs_cons {ports : List Half} {clean : Bool} {es : List Event} (h : SweptAs ports clean es) (p : Half) :
    SweptAs (p :: ports) clean (.rd8 p 0xFF :: es) := by
  cases clean with
  | true => exact congrArg (Event.rd8 p 0xFF :: ·) h
  | false =>
    obtain ⟨pre, q, post, v, rfl, hv, rfl⟩ := h
    exact ⟨p :: pre, q, post, v, rfl, hv, rfl⟩

/-- A sweep reads the ports in order up to the first that does not float; where all the answers are dictated as floating
it finds them clean. -/
theorem exec_probeSweep (ports : List Half) (s : State) :
    ∃ clean es t, SweptAs ports clean es ∧ PortsOnly es s t ∧ HandsOn (fun k => probeSweep k ports) s clean t ∧
      ∀ rest, s.bus.answers = List.replicate ports.length 0xFF ++ rest → clean = true ∧ t.bus.answers = rest := by
  induction ports generalizing s with
  | nil => exact ⟨true, [], s, rfl, portsOnly_refl s, fun _ => rfl, fun _ h => ⟨rfl, h⟩⟩
  | cons p ports ih =>
    have hread := ioRead8_ports p s
    by_cases hv : (ioRead8 p s).1 = Config.ioFloat
    · obtain ⟨clean, es, t, hswept, hports, hexec, hdictated⟩ := ih (ioRead8 p s).2
      rw [hv] at hread
      refine ⟨clean, _, t, sweptAs_cons hswept p, portsOnly_trans hread hports, fun k => ?_, fun rest h => ?_⟩
      · simp only [probeSweep, exec_rd8, if_pos hv]
        exact hexec k
      · exact hdictated rest (ioRead8_dictated p s h).2
    · refine ⟨false, _, _, ⟨[], p, ports, _, rfl, hv, rfl⟩, hread, fun k => ?_, fun rest h => ?_⟩
      · simp only [probeSweep, exec_rd8, if_neg hv]
      · exact absurd (ioRead8_dictated p s h).1 hv

theorem probeSweep_append (k : Bool → Prog) (ps qs : List Half) :
    probeSweep (fun clean => if clean then probeSweep k qs else k false) ps = probeSweep k (ps ++ qs) := by
  induction ps with
  | nil => rfl
  | cons p ps ih => simp only [List.cons_append, probeSweep, ih, Bool.false_eq_true, if_false]

theorem probePasses_eq (ports : List Half) (k : Bool → Prog) (n : Nat) :
    probePasses ports k n = probeSweep k (List.replicate n (ports ++ ports.reverse)).flatten := by
  induction n with
  | zero => rfl
  | succ n ih => rw [probePasses, ih, probeSweep_append, List.replicate_succ, List.flatten_cons]

/-- All the passes are one sweep of the ports in the order of the probe. -/
theorem cfgProbe_eq (c : Params) (base : Half) (len : Nat) (k : Bool → Prog) :
    cfgProbe c base len k = probeSweep k (probeOrder c.probePasses base len) := probePasses_eq _ k _

theorem exec_cfgProbe_run {s : State} (hmain : s.ctl.inIrq = false) (hquiet : Quiet s) (base : Half) (len : Byte) :
    exec (.cfgProbe base len) s = .next ((cfgProbeOp base len s.cfg).exec s) :=
  operate_steady (rs := [.mainContext]) (by simp [Req.holds, hmain])
    (steady_cfgProbe _ _ _ fun _ => steady_answer) hquiet

/-! ## The search for a base (42 R202) -/

section
variable (d : IoRange)

theorem ioFirst_eq : ioFirst d = ioCandidate d 0 := rfl

theorem ioCandidate_succ (n : Nat) : ioCandidate d (n + 1) = ioCandidate d n + ioStep d :=
  Nat.succ_mul _ _

theorem ioStep_pos : 0 < ioStep d := by
  unfold ioStep
  split
  · exact Nat.one_pos
  · next h => exact Nat.pos_of_ne_zero fun hz => h (BitVec.eq_of_toNat_eq hz)

theorem ioFits_iff (base : Nat) : ioFits d base = true ↔ IoTried d base := by simp [ioFits, IoTried]

/-- A multiple of the alignment less than one step above the floor is the first candidate. -/
theorem ioCandidate_zero_of_dvd {base : Nat} (hdvd : alignment d ∣ base) (hlow : max 0x280 d.minBase.toNat ≤ base)
    (hhigh : base < max 0x280 d.minBase.toNat + alignment d) : ioCandidate d 0 = base := by
  have hpos : 0 < alignment d := ioStep_pos d
  obtain ⟨q, rfl⟩ := hdvd
  have hq : (max 0x280 d.minBase.toNat + alignment d - 1) / alignment d = q := by
    rw [Nat.div_eq_iff hpos]
    rw [Nat.mul_comm] at hlow hhigh
    omega
  rw [ioCandidate, hq, Nat.add_zero, Nat.mul_comm]

end

theorem lo_eq_extractLsb' (v : Half) : lo v = v.extractLsb' 0 8 := BitVec.setWidth_eq_extractLsb' (by decide)

theorem hi_eq_extractLsb' (v : Half) : hi v = v.extractLsb' 8 8 := setWidth_ushiftRight_eq_extractLsb' v 8 8

/-- The writes that commit a base, high byte first. -/
def baseWritten (d : IoRange) (b : Half) (s : State) : State :=
  cfgWritten (d.cfgreg + 1) (lo b) (cfgWritten d.cfgreg (hi b) s)

theorem baseWritten_ports (d : IoRange) (b : Half) (s : State) :
    PortsOnly (cfgPair d.cfgreg (b.extractLsb' 8 8) ++ cfgPair (d.cfgreg + 1) (b.extractLsb' 0 8)) s
      (baseWritten d b s) := by
  rw [← lo_eq_extractLsb', ← hi_eq_extractLsb']
  exact portsOnly_trans (cfgWritten_ports _ _ s) (cfgWritten_ports _ _ _)

section
variable {d : IoRange} {base : Nat} (c : Params)

/-- A candidate that is not tried ends the search (42 R202). -/
theorem ioSearch_untried (h : ¬ IoTried d base) (k : Option Half → Prog) (n : Nat) :
    ioSearch c d k n base = k none := by
  cases n with
  | zero => rfl
  | succ n => rw [ioSearch, if_neg (mt (ioFits_iff d base).1 h)]

/-- A candidate that is tried is probed, and committed where it is clean, else the next one comes (42 R202). -/
theorem exec_ioSearch_tried (h : IoTried d base) (s : State) :
    ∃ clean es t, SweptAs (probeOrder c.probePasses (BitVec.ofNat 16 base) d.len.toNat) clean es ∧ PortsOnly es s t ∧
      (∀ k n, (ioSearch c d k (n + 1) base).exec s =
        if clean then (k (some (BitVec.ofNat 16 base))).exec (baseWritten d (BitVec.ofNat 16 base) t)
        else (ioSearch c d k n (base + ioStep d)).exec t) ∧
      ∀ rest, s.bus.answers = List.replicate (2 * d.len.toNat * c.probePasses) 0xFF ++ rest →
        clean = true ∧ t.bus.answers = rest := by
  obtain ⟨clean, es, t, hswept, hports, hexec, hdictated⟩ :=
    exec_probeSweep (probeOrder c.probePasses (BitVec.ofNat 16 base) d.len.toNat) s
  rw [length_probeOrder] at hdictated
  refine ⟨clean, es, t, hswept, hports, fun k n => ?_, hdictated⟩
  rw [ioSearch, if_pos ((ioFits_iff d base).2 h), cfgProbe_eq, hexec]
  cases clean <;> rfl

end

/-- How a search at candidate `base` ends, and its accesses from there on. -/
inductive SearchEnds (passes : Nat) (d : IoRange) (base : Nat) : Option Half → List Event → Prop
  | found (h : IoTried d base) : SearchEnds passes d base (some (BitVec.ofNat 16 base))
      (cleanProbe passes (BitVec.ofNat 16 base) d.len.toNat ++
        (cfgPair d.cfgreg ((BitVec.ofNat 16 base).extractLsb' 8 8) ++
          cfgPair (d.cfgreg + 1) ((BitVec.ofNat 16 base).extractLsb' 0 8)))
  | exhausted (h : ¬ IoTried d base) : SearchEnds passes d base none []

/-- The candidates from number `m` on were tried and occupied, one for each of the probes `ess`. -/
def AllOccupied (passes : Nat) (d : IoRange) (m : Nat) (ess : List (List Event)) : Prop :=
  ∀ x < ess.length, IoTried d (ioCandidate d (m + x)) ∧
    OccupiedProbe passes (BitVec.ofNat 16 (ioCandidate d (m + x))) d.len.toNat (ess.getD x [])

/-- A search from candidate number `m` on: the occupied ones, then how it ends. -/
def Searched (passes : Nat) (d : IoRange) (m : Nat) (s : State) (r : Option Half) (t : State) : Prop :=
  ∃ ess es, AllOccupied passes d m ess ∧ SearchEnds passes d (ioCandidate d (m + ess.length)) r es ∧
    PortsOnly (ess.flatten ++ es) s t

theorem allOccupied_nil (passes : Nat) (d : IoRange) (m : Nat) : AllOccupied passes d m [] :=
  fun _ h => absurd h (Nat.not_lt_zero _)

theorem allOccupied_cons {passes : Nat} {d : IoRange} {m : Nat} {es : List Event} {ess : List (List Event)}
    (htried : IoTried d (ioCandidate d m))
    (hes : OccupiedProbe passes (BitVec.ofNat 16 (ioCandidate d m)) d.len.toNat es)
    (hess : AllOccupied passes d (m + 1) ess) : AllOccupied passes d m (es :: ess) := by
  intro x hx
  cases x with
  | zero => exact ⟨htried, hes⟩
  | succ x =>
    have hstep : m + (x + 1) = m + 1 + x := by omega
    rw [hstep]
    exact hess x (Nat.lt_of_succ_lt_succ hx)

/-- The candidates run out before the fuel does: each is above the one before, and none above 0xFFFF is tried. -/
theorem exec_ioSearch (c : Params) (d : IoRange) (n m : Nat) (hfuel : 0x10000 ≤ ioCandidate d m + n) (s : State) :
    ∃ r t, Searched c.probePasses d m s r t ∧ HandsOn (fun k => ioSearch c d k n (ioCandidate d m)) s r t := by
  induction n generalizing m s with
  | zero =>
    have huntried : ¬ IoTried d (ioCandidate d m) := fun h => absurd h.1 (by have := d.maxBase.isLt; omega)
    exact ⟨none, s, ⟨[], [], allOccupied_nil _ _ _, .exhausted huntried, portsOnly_refl s⟩, fun _ => rfl⟩
  | succ n ih =>
    by_cases htried : IoTried d (ioCandidate d m)
    · obtain ⟨clean, es, t, hswept, hports, hexec, -⟩ := exec_ioSearch_tried c htried s
      cases clean with
      | true =>
        obtain rfl := cleanProbe_of_swept hswept
        have hall := portsOnly_trans hports (baseWritten_ports d (BitVec.ofNat 16 (ioCandidate d m)) t)
        exact ⟨_, _, ⟨[], _, allOccupied_nil _ _ _, .found htried, hall⟩, fun k => hexec k n⟩
      | false =>
        have hfuel' : 0x10000 ≤ ioCandidate d (m + 1) + n := by
          rw [ioCandidate_succ]
          have := ioStep_pos d
          omega
        obtain ⟨r, u, ⟨ess, es', hess, hends, hports'⟩, hexec'⟩ := ih (m + 1) hfuel' t
        have hstep : m + (es :: ess).length = m + 1 + ess.length := by simp only [List.length_cons]; omega
        refine ⟨r, u, ⟨es :: ess, es', allOccupied_cons htried (occupiedProbe_of_swept hswept) hess,
          hstep ▸ hends, ?_⟩, fun k => ?_⟩
        · rw [List.flatten_cons, List.append_assoc]
          exact portsOnly_trans hports hports'
        · exact (hexec k n).trans (ioCandidate_succ d m ▸ hexec' k)
    · exact ⟨none, s, ⟨[], [], allOccupied_nil _ _ _, .exhausted htried, portsOnly_refl s⟩, fun k =>
        congrArg (Prog.exec · s) (ioSearch_untried c htried k (n + 1))⟩

/-! ## `CFG.IO` -/

section
variable (i j k : Nat)

/-- What `CFG.IO` does with what its search found. -/
def ioEnded : Option Half → State → State
  | some b => assignIo i j k b
  | none => raise .noFreeIoRange

theorem exec_cfgIo (c : Params) (s : State) :
    ∃ r t, Searched c.probePasses (readIo i j k s).1 0 (readIo i j k s).2 r t ∧
      HandsOn (cfgIo c i j k) s r.isSome (ioEnded i j k r t) := by
  obtain ⟨r, t, hsearched, hexec⟩ :=
    exec_ioSearch c (readIo i j k s).1 ioCandidates 0 (Nat.le_add_left _ _) (readIo i j k s).2
  refine ⟨r, t, hsearched, fun next => ?_⟩
  rw [cfgIo, exec_io, ioFirst_eq, hexec]
  cases r <;> rfl

variable {i j k}

theorem readIo_there {s : State} (h : k < (s.ld i j).io.length) : readIo i j k s = (s.ioRange i j k, s) := if_pos h

theorem ioRange_modIo_self {s : State} (hl : LdThere s i j) (hk : k < (s.ld i j).io.length) (f : IoRange → IoRange) :
    (modIo i j k f s).ioRange i j k = f (s.ioRange i j k) := by
  unfold State.ioRange modIo
  rw [ld_modLd_self hl]
  exact getD_modify_self hk _ _

/-- Where every read of the first probe floats, the first candidate is assigned if it is tried (42 R208). -/
theorem exec_cfgIo_floating (c : Params) {s : State} (hk : k < (s.ld i j).io.length)
    (htried : IoTried (s.ioRange i j k) (ioCandidate (s.ioRange i j k) 0)) {rest : List Half}
    (hanswers : s.bus.answers =
      List.replicate (2 * (s.ioRange i j k).len.toNat * c.probePasses) 0xFF ++ rest) :
    ∃ es t, PortsOnly es s t ∧ t.bus.answers = rest ∧ HandsOn (cfgIo c i j k) s true
      (assignIo i j k (BitVec.ofNat 16 (ioCandidate (s.ioRange i j k) 0)) t) := by
  obtain ⟨clean, es, t, -, hports, hexec, hdictated⟩ := exec_ioSearch_tried c htried s
  obtain ⟨rfl, hrest⟩ := hdictated rest hanswers
  have hall := portsOnly_trans hports (baseWritten_ports (s.ioRange i j k)
    (BitVec.ofNat 16 (ioCandidate (s.ioRange i j k) 0)) t)
  refine ⟨_, _, hall, hrest, fun next => ?_⟩
  rw [cfgIo, exec_io, readIo_there hk]
  exact hexec _ 0xFFFF

end

theorem exec_cfgIo_run {s : State} (h : PnpReady s) (i j k : Byte) :
    exec (.cfgIo i j k) s = .next ((cfgIoOp i j k s.cfg).exec s) :=
  operate_pnp h (rs := []) nofun (steady_cfgIoOp i j k s.cfg)

/-! ## `CFG.MATCH`, `CFG.SELECT`, `CFG.IRQ` and `CFG.ACTIVATE` (42 R200, R201, R204, R205) -/

theorem cfgMatch_iff (l : LogicalDevice) : cfgMatch l = true ↔ isNe2000 l := by
  simp only [cfgMatch, isNe2000, Bool.or_eq_true, List.any_eq_true, decide_eq_true_eq, exists_eq_right]
  rfl

theorem exec_cfgMatch_there {s : State} (hmain : s.ctl.inIrq = false) (hquiet : Quiet s) {i j : Byte}
    (hl : LdThere s i.toNat j.toNat) :
    exec (.cfgMatch i j) s = .next (setResult (.bool (cfgMatch (s.ld i.toNat j.toNat))) s) := by
  have hrun : exec (.cfgMatch i j) s = .next ((cfgMatchOp i j s.cfg).exec s) :=
    operate_steady (rs := [.mainContext]) (by simp [Req.holds, hmain]) (steady_ld fun _ => steady_answer) hquiet
  rw [hrun, cfgMatchOp, deviceLd, exec_ld, readLd_there hl]
  rfl

/-- The state after `CFG.SELECT`. -/
def selected (c : Params) (i j : Nat) (s : State) : State :=
  cfgWritten c.num.logicalDevice (BitVec.ofNat 8 j) (cfgWritten c.num.wake (readCsn i s).1 (readCsn i s).2)

theorem exec_cfgSelect (c : Params) (i j : Nat) (k : Prog) (s : State) :
    (cfgSelect c i j k).exec s = k.exec (selected c i j s) := rfl

theorem exec_cfgSelect_run {s : State} (h : PnpReady s) (i j : Byte) :
    exec (.cfgSelect i j) s = .next (selected s.cfg i.toNat j.toNat s) :=
  operate_pnp h (rs := []) nofun (p := cfgSelectOp i j) (steady_cfgSelect _ _ _ steady_done)

theorem selected_ports (c : Params) {i : Nat} {s : State} (h : i < s.dev.length) (j : Byte) :
    PortsOnly (cfgPair c.num.wake (s.device i).csn ++ cfgPair c.num.logicalDevice j) s (selected c i j.toNat s) := by
  rw [selected, readCsn, readDevice_there h, BitVec.ofNat_toNat, BitVec.setWidth_eq]
  exact portsOnly_trans (cfgWritten_ports _ _ s) (cfgWritten_ports _ _ _)

/-- The writes of `CFG.ACTIVATE`. -/
def activation (c : Params) (j : Nat) (s : State) : State :=
  cfgWritten c.num.activate 0x01 (cfgWritten c.num.ioRangeCheck 0x00
    (cfgWritten c.num.logicalDevice (BitVec.ofNat 8 j) s))

/-- `ld.active <- 1`. -/
def markActive (i j : Nat) (s : State) : State := modLd i j (fun l => { l with active := true }) s

theorem exec_cfgActivate_run {s : State} (h : PnpReady s) (i j : Byte) :
    exec (.cfgActivate i j) s = .next (markActive i.toNat j.toNat (activation s.cfg j.toNat s)) :=
  operate_pnp h (rs := []) nofun (p := cfgActivateOp i j) (steady_cfgActivate _ _ _ steady_done)

theorem activation_ports (c : Params) (j : Byte) (s : State) :
    PortsOnly (cfgPair c.num.logicalDevice j ++ cfgPair c.num.ioRangeCheck 0x00 ++ cfgPair c.num.activate 0x01) s
      (activation c j.toNat s) := by
  rw [activation, BitVec.ofNat_toNat, BitVec.setWidth_eq]
  exact portsOnly_trans (portsOnly_trans (cfgWritten_ports _ _ s) (cfgWritten_ports _ _ _)) (cfgWritten_ports _ _ _)

/-- Line 5 is offered by a resource whose mask holds it and whose first information bit is high-true edge. -/
theorem irqOffered_eq_some {l : LogicalDevice} {r : IrqRes} :
    irqOffered l = some r ↔ l.irq = some r ∧ r.mask.getLsbD 5 = true ∧ r.info.getLsbD 0 = true := by
  unfold irqOffered
  cases hirq : l.irq with
  | none => simp
  | some r' =>
    simp only [Config.irqChoice, Option.ite_none_right_eq_some, Bool.and_eq_true, Option.some.injEq]
    constructor
    · rintro ⟨hoffered, rfl⟩
      exact ⟨rfl, hoffered⟩
    · rintro ⟨rfl, hoffered⟩
      exact ⟨hoffered, rfl⟩

/-- The writes of an IRQ that is granted. -/
def irqWritten (r : IrqRes) (s : State) : State := cfgWritten (r.cfgreg + 1) 0x02 (cfgWritten r.cfgreg 0x05 s)

theorem irqWritten_ports (r : IrqRes) (s : State) :
    PortsOnly (cfgPair r.cfgreg 0x05 ++ cfgPair (r.cfgreg + 1) 0x02) s (irqWritten r s) :=
  portsOnly_trans (cfgWritten_ports _ _ s) (cfgWritten_ports _ _ _)

/-- What `CFG.IRQ` does with the resource that offers the line, or with none. -/
def irqEnded (i j : Nat) : Option IrqRes → State → State
  | some r, s => assignIrq i j r (irqWritten r s)
  | none, s => raise .irqUnsupported s

theorem exec_cfgIrq (i j : Nat) (s : State) :
    HandsOn (cfgIrq i j) s (irqOffered (readLd i j s).1).isSome
      (irqEnded i j (irqOffered (readLd i j s).1) (readLd i j s).2) := by
  intro next
  rw [cfgIrq, deviceLd, exec_ld]
  cases irqOffered (readLd i j s).1 <;> rfl

theorem exec_cfgIrq_run {s : State} (h : PnpReady s) (i j : Byte) :
    exec (.cfgIrq i j) s = .next ((cfgIrqOp i j s.cfg).exec s) :=
  operate_pnp h (rs := []) nofun (steady_cfgIrq _ _ fun _ => steady_done)

theorem exec_cfgIrq_there {s : State} (h : PnpReady s) {i j : Byte} (hl : LdThere s i.toNat j.toNat) :
    exec (.cfgIrq i j) s =
      .next (irqEnded i.toNat j.toNat (irqOffered (s.ld i.toNat j.toNat)) s) := by
  have hexec := exec_cfgIrq i.toNat j.toNat s fun _ => .done
  rw [readLd_there hl] at hexec
  exact (exec_cfgIrq_run h i j).trans (congrArg _ hexec)

/-! ## What configuring logical devices leaves as it was -/

/-- A write keeps what it keeps of every logical device, in use or not. -/
theorem ld_modLd_keeps {α : Type} {g : LogicalDevice → α} {f : LogicalDevice → LogicalDevice}
    (hf : ∀ l, g (f l) = g l) (i j i' j' : Nat) (s : State) : g ((modLd i j f s).ld i' j') = g (s.ld i' j') := by
  by_cases hl : LdThere s i j
  · by_cases hsame : i' = i ∧ j' = j
    · obtain ⟨rfl, rfl⟩ := hsame
      rw [ld_modLd_self hl, hf]
    · rw [ld_modLd_ne hl.1 (not_and_or.1 hsame)]
  · rw [ld_congr (dev_modLd_unused hl f)]

/-- From `s` to `u` the allocator changed logical devices in `touched` only, none of them in its identity, and of the
rest of the state the log, the running context's own part and the environment at most (42 R201 to R207). -/
structure CfgFrame (touched : Nat → Nat → Prop) (s u : State) : Prop where
  rest : u = { s with dev := u.dev, log := u.log, ctl := u.ctl, bus := u.bus }
  inIrq : u.ctl.inIrq = s.ctl.inIrq
  count : u.dev.length = s.dev.length
  card : ∀ i, (u.device i).crd.lds.length = (s.device i).crd.lds.length ∧
    { u.device i with crd := { (u.device i).crd with lds := [] } } =
      { s.device i with crd := { (s.device i).crd with lds := [] } }
  isMatch : ∀ i j, cfgMatch (u.ld i j) = cfgMatch (s.ld i j)
  others : ∀ i j, ¬ touched i j → u.ld i j = s.ld i j

/-- The one logical device `DEV[i].crd.ld[j]`. -/
def OnlyLd (i j : Nat) : Nat → Nat → Prop := fun i' j' => i' = i ∧ j' = j

section
variable {T T' : Nat → Nat → Prop} {s t u : State}

theorem cfgFrame_of_dev (hrest : u = { s with log := u.log, ctl := u.ctl, bus := u.bus })
    (hirq : u.ctl.inIrq = s.ctl.inIrq) : CfgFrame T s u := by
  have hdev : u.dev = s.dev := by rw [hrest]
  have hdevice (i : Nat) : u.device i = s.device i := by simp only [State.device, hdev]
  refine ⟨hrest.trans (by rw [hdev]), hirq, congrArg _ hdev, fun i => ?_, fun i j => ?_, fun i j _ => ld_congr hdev i j⟩
  · rw [hdevice]
    exact ⟨rfl, rfl⟩
  · rw [ld_congr hdev]

theorem cfgFrame_refl (T : Nat → Nat → Prop) (s : State) : CfgFrame T s s := cfgFrame_of_dev rfl rfl

theorem cfgFrame_modLd {f : LogicalDevice → LogicalDevice} (hf : ∀ l, cfgMatch (f l) = cfgMatch l) (i j : Nat)
    (s : State) : CfgFrame (OnlyLd i j) s (modLd i j f s) := by
  by_cases hi : i < s.dev.length
  · exact ⟨rfl, rfl, List.length_modify _ _ _, fun i' => device_modLd hi j i' f,
      fun i' j' => ld_modLd_keeps hf i j i' j' s, fun i' j' hne => ld_modLd_ne hi (not_and_or.1 hne) f⟩
  · have hdev : (modLd i j f s).dev = s.dev := dev_modLd_unused (fun hl => hi hl.1) f
    have hsame : modLd i j f s = s := by
      show { s with dev := (modLd i j f s).dev } = s
      rw [hdev]
    rw [hsame]
    exact cfgFrame_refl _ s

theorem CfgFrame.trans (h : CfgFrame T s t) (k : CfgFrame T t u) : CfgFrame T s u where
  rest := k.rest.trans (by rw [h.rest])
  inIrq := k.inIrq.trans h.inIrq
  count := k.count.trans h.count
  card i := ⟨(k.card i).1.trans (h.card i).1, (k.card i).2.trans (h.card i).2⟩
  isMatch i j := (k.isMatch i j).trans (h.isMatch i j)
  others i j hne := (k.others i j hne).trans (h.others i j hne)

theorem CfgFrame.mono (h : CfgFrame T s u) (hT : ∀ i j, T i j → T' i j) : CfgFrame T' s u :=
  ⟨h.rest, h.inIrq, h.count, h.card, h.isMatch, fun i j hne => h.others i j (mt (hT i j) hne)⟩

theorem CfgFrame.cfg (h : CfgFrame T s u) : u.cfg = s.cfg := by rw [h.rest]

theorem CfgFrame.pnpReady (h : CfgFrame T s u) (hs : PnpReady s) : PnpReady u := by
  have hiso : u.iso = s.iso := by rw [h.rest]
  have hfl : u.fl = s.fl := by rw [h.rest]
  simpa [PnpReady, Quiet, State.deliverable, hiso, hfl, h.inIrq] using hs

theorem CfgFrame.valid (h : CfgFrame T s u) (i : Nat) : (u.device i).crd.valid = (s.device i).crd.valid :=
  congrArg (fun d => d.crd.valid) (h.card i).2

theorem CfgFrame.ldThere (h : CfgFrame T s u) {i j : Nat} (hl : LdThere s i j) : LdThere u i j := by
  obtain ⟨hi, hj⟩ := hl
  exact ⟨h.count ▸ hi, (h.card i).1 ▸ hj⟩

theorem cfgFrame_ports {es : List Event} (h : PortsOnly es s u) : CfgFrame T s u :=
  cfgFrame_of_dev (by rw [h]) (by rw [h])

theorem cfgFrame_setResult (r : Result) (s : State) : CfgFrame T s (setResult r s) := cfgFrame_of_dev rfl (by simp)

end

/-- What the parts of `CFG.DEVICE` before the activation keep: they do not activate it either. -/
def PartFrame (i j : Nat) (s u : State) : Prop :=
  CfgFrame (OnlyLd i j) s u ∧ (u.ld i j).active = (s.ld i j).active

section
variable {i j : Nat} {s t u : State}

theorem PartFrame.trans (h : PartFrame i j s t) (k : PartFrame i j t u) : PartFrame i j s u :=
  ⟨h.1.trans k.1, k.2.trans h.2⟩

theorem partFrame_of_dev (hrest : u = { s with log := u.log, ctl := u.ctl, bus := u.bus })
    (hirq : u.ctl.inIrq = s.ctl.inIrq) : PartFrame i j s u := by
  have hdev : u.dev = s.dev := by rw [hrest]
  exact ⟨cfgFrame_of_dev hrest hirq, by rw [ld_congr hdev]⟩

theorem partFrame_ports {es : List Event} (h : PortsOnly es s u) : PartFrame i j s u :=
  partFrame_of_dev (by rw [h]) (by rw [h])

theorem partFrame_raise (f : Failure) (s : State) : PartFrame i j s (raise f s) :=
  partFrame_of_dev (by unfold raise; split <;> rfl) (raise_inIrq s f)

theorem partFrame_setResult (r : Result) (s : State) : PartFrame i j s (setResult r s) :=
  partFrame_of_dev rfl (setResult_inIrq s r)

theorem partFrame_modLd {f : LogicalDevice → LogicalDevice} (hmatch : ∀ l, cfgMatch (f l) = cfgMatch l)
    (hactive : ∀ l, (f l).active = l.active) (s : State) : PartFrame i j s (modLd i j f s) :=
  ⟨cfgFrame_modLd hmatch i j s, ld_modLd_keeps hactive i j i j s⟩

theorem partFrame_assignIo (i j k : Nat) (b : Half) (s : State) : PartFrame i j s (assignIo i j k b s) :=
  (partFrame_modLd (f := fun l => { l with io := l.io.modify k fun x => { x with assigned := some b } })
    (fun _ => rfl) (fun _ => rfl) s).trans (partFrame_setResult .ok _)

theorem partFrame_assignIrq (i j : Nat) (r : IrqRes) (s : State) : PartFrame i j s (assignIrq i j r s) :=
  (partFrame_modLd (f := fun l => { l with irq := some { r with assigned := some 5 } })
    (fun _ => rfl) (fun _ => rfl) s).trans (partFrame_setResult .ok _)

theorem partFrame_readIo (i j k : Nat) (s : State) : PartFrame i j s (readIo i j k s).2 := by
  unfold readIo
  split <;> exact partFrame_of_dev rfl rfl

theorem partFrame_readLd (i j : Nat) (s : State) : PartFrame i j s (readLd i j s).2 := by
  unfold readLd
  split <;> exact partFrame_of_dev rfl rfl

end

/-! ## The parts of `CFG.DEVICE` that can fail -/

/-- An I/O range is configured or refused, which its result says too. -/
theorem exec_cfgIo_part (c : Params) (i j k : Nat) (s : State) :
    ∃ ok u, HandsOn (cfgIo c i j k) s ok u ∧ (u.result = .ok ↔ ok = true) ∧ PartFrame i j s u := by
  obtain ⟨r, t, ⟨ess, es, -, -, hports⟩, hexec⟩ := exec_cfgIo i j k c s
  have ht : PartFrame i j s t := (partFrame_readIo i j k s).trans (partFrame_ports hports)
  refine ⟨_, _, hexec, ?_⟩
  cases r with
  | some b =>
    exact ⟨iff_of_true (setResult_result _ _) rfl, ht.trans (partFrame_assignIo i j k b t)⟩
  | none =>
    have hresult : (raise .noFreeIoRange t).result = .failed .noFreeIoRange := raise_result _ _
    exact ⟨by simp [ioEnded, hresult], ht.trans (partFrame_raise _ t)⟩

/-- The IRQ is granted or refused, which its result says too. -/
theorem exec_cfgIrq_part (i j : Nat) (s : State) :
    ∃ ok u, HandsOn (cfgIrq i j) s ok u ∧ (u.result = .ok ↔ ok = true) ∧ PartFrame i j s u := by
  refine ⟨_, _, exec_cfgIrq i j s, ?_⟩
  have ht : PartFrame i j s (readLd i j s).2 := partFrame_readLd i j s
  cases irqOffered (readLd i j s).1 with
  | some r =>
    exact ⟨iff_of_true (setResult_result _ _) rfl, (ht.trans (partFrame_ports (irqWritten_ports r _))).trans
      (partFrame_assignIrq i j r _)⟩
  | none =>
    have hresult : (raise .irqUnsupported (readLd i j s).2).result = .failed .irqUnsupported := raise_result _ _
    exact ⟨by simp [irqEnded, hresult], ht.trans (partFrame_raise _ _)⟩

/-- The operations run in order up to the first that does not answer `ok`, from `s` to `u`; the flag is whether all
did. -/
inductive PartsRun : List Instr → State → Bool → State → Prop
  | done (s : State) : PartsRun [] s true s
  | passed {x : Instr} {xs : List Instr} {s t u : State} {ok : Bool} (hx : exec x s = .next t) (ht : t.result = .ok)
      (hxs : PartsRun xs t ok u) : PartsRun (x :: xs) s ok u
  | failed {x : Instr} {xs : List Instr} {s u : State} (hx : exec x s = .next u) (hu : u.result ≠ .ok) :
      PartsRun (x :: xs) s false u

/-- Each of the first `n` operations answers `ok`. -/
def Passed (xs : List Instr) (s : State) (n : Nat) : Prop :=
  ∀ m < n, ∃ w, runInstrs (xs.take (m + 1)) s = .next w ∧ w.result = .ok

section
variable {x : Instr} {xs ys : List Instr} {s t u : State}

theorem runInstrs_cons (h : exec x s = .next t) : runInstrs (x :: xs) s = runInstrs xs t := by
  simp only [runInstrs, h]

theorem runInstrs_append (h : runInstrs xs s = .next t) : runInstrs (xs ++ ys) s = runInstrs ys t := by
  induction xs generalizing s with
  | nil =>
    cases h
    rfl
  | cons x xs ih =>
    cases hx : exec x s with
    | next w =>
      rw [runInstrs_cons hx] at h
      rw [List.cons_append, runInstrs_cons hx, ih h]
    | fault f => simp [runInstrs, hx] at h
    | refused f => simp [runInstrs, hx] at h

theorem passed_cons {n : Nat} (hx : exec x s = .next t) (ht : t.result = .ok) (h : Passed xs t n) :
    Passed (x :: xs) s (n + 1) := by
  intro m hm
  rw [List.take_succ_cons, runInstrs_cons hx]
  cases m with
  | zero => exact ⟨t, rfl, ht⟩
  | succ m => exact h m (Nat.lt_of_succ_lt_succ hm)

theorem PartsRun.all (h : PartsRun xs s true u) : runInstrs xs s = .next u ∧ Passed xs s xs.length := by
  induction xs generalizing s with
  | nil =>
    cases h
    exact ⟨rfl, fun m hm => absurd hm (Nat.not_lt_zero m)⟩
  | cons x xs ih =>
    cases h with
    | passed hx ht hxs =>
      obtain ⟨hrun, hpassed⟩ := ih hxs
      exact ⟨(runInstrs_cons hx).trans hrun, passed_cons hx ht hpassed⟩

theorem PartsRun.first_failed (h : PartsRun xs s false u) :
    ∃ n < xs.length, runInstrs (xs.take (n + 1)) s = .next u ∧ u.result ≠ .ok ∧ Passed xs s n := by
  induction xs generalizing s with
  | nil => cases h
  | cons x xs ih =>
    cases h with
    | passed hx ht hxs =>
      obtain ⟨n, hn, hrun, hu, hpassed⟩ := ih hxs
      exact ⟨n + 1, Nat.succ_lt_succ hn, (runInstrs_cons hx).trans hrun, hu, passed_cons hx ht hpassed⟩
    | failed hx hu =>
      exact ⟨0, Nat.succ_pos _, runInstrs_cons hx, hu, fun m hm => absurd hm (Nat.not_lt_zero m)⟩

theorem PartsRun.append {ok : Bool} (h : PartsRun xs s true t) (k : PartsRun ys t ok u) :
    PartsRun (xs ++ ys) s ok u := by
  induction xs generalizing s with
  | nil =>
    cases h
    exact k
  | cons x xs ih =>
    cases h with
    | passed hx ht hxs => exact .passed hx ht (ih hxs)

theorem PartsRun.append_failed (h : PartsRun xs s false u) : PartsRun (xs ++ ys) s false u := by
  induction xs generalizing s with
  | nil => cases h
  | cons x xs ih =>
    cases h with
    | passed hx ht hxs => exact .passed hx ht (ih hxs)
    | failed hx hu => exact .failed hx hu

theorem partsRun_singleton {ok : Bool} (hx : exec x s = .next u) (hok : u.result = .ok ↔ ok = true) :
    PartsRun [x] s ok u := by
  cases ok with
  | true => exact .passed hx (hok.2 rfl) (.done u)
  | false => exact .failed hx fun hu => Bool.false_ne_true (hok.1 hu)

end

section
variable {s : State} {i j : Byte}

/-- The I/O ranges of a logical device are its `CFG.IO` operations in order. -/
theorem exec_cfgRanges (h : PnpReady s) {ks : List Nat} (hks : ∀ k ∈ ks, k < 256) :
    ∃ ok u, HandsOn (fun next => cfgRanges s.cfg i.toNat j.toNat next ks) s ok u ∧
      PartsRun (ks.map fun k => .cfgIo i j (BitVec.ofNat 8 k)) s ok u ∧ PartFrame i.toNat j.toNat s u := by
  induction ks generalizing s with
  | nil => exact ⟨true, s, fun _ => rfl, .done s, partFrame_of_dev rfl rfl⟩
  | cons k ks ih =>
    obtain ⟨hk, hks⟩ := List.forall_mem_cons.1 hks
    obtain ⟨ok, t, hexec, hok, hframe⟩ := exec_cfgIo_part s.cfg i.toNat j.toNat k s
    have hrun : exec (.cfgIo i j (BitVec.ofNat 8 k)) s = .next t := by
      rw [exec_cfgIo_run h, cfgIoOp, BitVec.toNat_ofNat, Nat.mod_eq_of_lt hk]
      exact congrArg _ (hexec fun _ => .done)
    cases ok with
    | false => exact ⟨false, t, fun next => hexec _, .failed hrun fun ht => Bool.false_ne_true (hok.1 ht), hframe⟩
    | true =>
      obtain ⟨ok, u, hexec', hparts, hframe'⟩ := ih (hframe.1.pnpReady h) hks
      rw [hframe.1.cfg] at hexec'
      exact ⟨ok, u, fun next => (hexec _).trans (hexec' next), .passed hrun (hok.2 rfl) hparts, hframe.trans hframe'⟩

/-- Then the IRQ, where all of them succeeded. -/
theorem exec_deviceParts (h : PnpReady s) {n : Nat} (hn : n ≤ 8) :
    ∃ ok u, HandsOn (fun next => cfgRanges s.cfg i.toNat j.toNat
        (fun ok => if ok then cfgIrq i.toNat j.toNat next else next false) (List.range n)) s ok u ∧
      PartsRun (deviceParts i j n) s ok u ∧ PartFrame i.toNat j.toNat s u := by
  obtain ⟨ok, t, hexec, hparts, hframe⟩ := exec_cfgRanges (i := i) (j := j) h (ks := List.range n)
    fun k hk => by have := List.mem_range.1 hk; omega
  cases ok with
  | false => exact ⟨false, t, fun next => hexec _, hparts.append_failed, hframe⟩
  | true =>
    obtain ⟨ok, u, hexec', hok, hframe'⟩ := exec_cfgIrq_part i.toNat j.toNat t
    have hrun : exec (.cfgIrq i j) t = .next u :=
      (exec_cfgIrq_run (hframe.1.pnpReady h) i j).trans (congrArg _ (hexec' fun _ => .done))
    exact ⟨ok, u, fun next => (hexec _).trans (hexec' next), hparts.append (partsRun_singleton hrun hok),
      hframe.trans hframe'⟩

/-! ## `CFG.DEVICE` (42 R206) -/

/-- What `CFG.DEVICE` does after its parts that can fail. -/
def deviceEnded (c : Params) (i j : Nat) : Bool → State → State
  | true, u => setResult .ok (markActive i j (activation c j u))
  | false, u => setResult .fail u

theorem partFrame_selected (c : Params) {i : Nat} (hi : i < s.dev.length) (j : Byte) :
    PartFrame i j.toNat s (selected c i j.toNat s) := partFrame_ports (selected_ports c hi j)

theorem cfgFrame_deviceEnded (c : Params) (i : Nat) (j : Byte) (ok : Bool) (u : State) :
    CfgFrame (OnlyLd i j.toNat) u (deviceEnded c i j.toNat ok u) := by
  cases ok with
  | false => exact cfgFrame_setResult _ u
  | true =>
    have hmark : CfgFrame (OnlyLd i j.toNat) (activation c j.toNat u) (markActive i j.toNat (activation c j.toNat u)) :=
      cfgFrame_modLd (f := fun l => { l with active := true }) (fun _ => rfl) i j.toNat _
    exact ((cfgFrame_ports (activation_ports c j u)).trans hmark).trans (cfgFrame_setResult .ok _)

/-- A whole device: it is selected, its parts run, then it is activated or not, and what follows runs from there. -/
theorem exec_cfgDevice_parts (h : PnpReady s) (hl : LdThere s i.toNat j.toNat)
    (hio : (s.ld i.toNat j.toNat).io.length ≤ 8) :
    ∃ ok u, PartsRun (deviceParts i j (s.ld i.toNat j.toNat).io.length) (selected s.cfg i.toNat j.toNat s) ok u ∧
      PartFrame i.toNat j.toNat s u ∧ ∀ k, (cfgDevice s.cfg i.toNat j.toNat k).exec s =
        k.exec (deviceEnded s.cfg i.toNat j.toNat ok u) := by
  have hselected : PartFrame i.toNat j.toNat s (selected s.cfg i.toNat j.toNat s) := partFrame_selected s.cfg hl.1 j
  obtain ⟨ok, u, hexec, hparts, hframe⟩ :=
    exec_deviceParts (i := i) (j := j) (hselected.1.pnpReady h) hio
  rw [hselected.1.cfg] at hexec
  refine ⟨ok, u, hparts, hselected.trans hframe, fun k => ?_⟩
  rw [cfgDevice, deviceLd, exec_ld, readLd_there hl, exec_cfgSelect]
  refine (hexec fun ok => if ok then cfgActivate s.cfg i.toNat j.toNat (deviceResult true k)
    else deviceResult false k).trans ?_
  cases ok <;> rfl

theorem exec_cfgDevice_run (h : PnpReady s) (i j : Byte) :
    exec (.cfgDevice i j) s = .next ((cfgDevice s.cfg i.toNat j.toNat .done).exec s) :=
  operate_pnp h (rs := []) nofun (p := cfgDeviceOp i j) (steady_cfgDevice _ _ _ steady_done)

/-- `CFG.DEVICE` changes its logical device only, and inside `CFG.ALL` it does what it does alone. -/
theorem exec_cfgDevice_frame (h : PnpReady s) (hl : LdThere s i.toNat j.toNat)
    (hio : (s.ld i.toNat j.toNat).io.length ≤ 8) :
    ∃ u, exec (.cfgDevice i j) s = .next u ∧ CfgFrame (OnlyLd i.toNat j.toNat) s u ∧
      ∀ k, (cfgDevice s.cfg i.toNat j.toNat k).exec s = k.exec u := by
  obtain ⟨ok, u, -, hframe, hexec⟩ := exec_cfgDevice_parts h hl hio
  exact ⟨_, (exec_cfgDevice_run h i j).trans (congrArg _ (hexec .done)),
    hframe.1.trans (cfgFrame_deviceEnded s.cfg i.toNat j ok u), hexec⟩

end

/-! ## `CFG.ALL` (42 R207) -/

/-- The operations of `CFG.ALL` on the listed logical devices of one card. -/
def eligibleLds (s : State) (i : Nat) (js : List Nat) : List Instr :=
  (js.filter fun j => cfgMatch (s.ld i j)).map fun j => .cfgDevice (BitVec.ofNat 8 i) (BitVec.ofNat 8 j)

/-- The operations of `CFG.ALL` on one card. -/
def eligibleCard (s : State) (i : Nat) : List Instr :=
  if (s.device i).crd.valid then eligibleLds s i (List.range (s.device i).crd.lds.length) else []

theorem eligibleLds_cons (s : State) (i j : Nat) (js : List Nat) :
    eligibleLds s i (j :: js) = if cfgMatch (s.ld i j) then
      .cfgDevice (BitVec.ofNat 8 i) (BitVec.ofNat 8 j) :: eligibleLds s i js else eligibleLds s i js := by
  unfold eligibleLds
  rw [List.filter_cons]
  split <;> rfl

theorem eligible_eq (s : State) : eligible s = (List.range s.dev.length).flatMap (eligibleCard s) := rfl

section
variable {T : Nat → Nat → Prop} {s u : State}

/-- What the table's capacities say of a logical device in use: its numbers are bytes, and its I/O ranges at most 8. -/
theorem bounds_of_ldThere (ht : TableInv s) {i j : Nat} (hl : LdThere s i j) :
    i < 256 ∧ j < 256 ∧ (s.ld i j).io.length ≤ 8 := by
  obtain ⟨hcount, hdevices, -⟩ := ht
  obtain ⟨hi, hj⟩ := hl
  have hdevice : s.device i = s.dev[i] := List.getD_eq_getElem _ _ hi
  obtain ⟨-, hlds, hld⟩ := hdevices i _ (List.getElem?_eq_getElem hi)
  rw [← hdevice] at hlds hld
  have hmem : s.ld i j ∈ (s.device i).crd.lds := by
    rw [State.ld, List.getD_eq_getElem _ _ hj]
    exact List.getElem_mem hj
  obtain ⟨-, hio, -⟩ := hld _ hmem
  exact ⟨by omega, by omega, hio⟩

/-- The state between two devices of `CFG.ALL`, seen from its start `s`. -/
structure AllFrame (T : Nat → Nat → Prop) (s u : State) : Prop extends CfgFrame T s u where
  ready : PnpReady u
  table : TableInv u

/-- The listed logical devices of one card are its eligible ones, one `CFG.DEVICE` after another. -/
theorem exec_cfgLds (hu : AllFrame T s u) {i : Nat} (hT : ∀ j, cfgMatch (s.ld i j) = true → T i j) {js : List Nat}
    (hjs : ∀ j ∈ js, LdThere s i j) :
    ∃ v, runInstrs (eligibleLds s i js) u = .next v ∧ AllFrame T s v ∧
      ∀ next, (cfgLds s.cfg i next js).exec u = next.exec v := by
  induction js generalizing u with
  | nil => exact ⟨u, rfl, hu, fun _ => rfl⟩
  | cons j js ih =>
    obtain ⟨hj, hjs⟩ := List.forall_mem_cons.1 hjs
    have hl : LdThere u i j := hu.ldThere hj
    have hread (next : Prog) : (cfgLds s.cfg i next (j :: js)).exec u =
        (if cfgMatch (s.ld i j) then cfgDevice s.cfg i j (cfgLds s.cfg i next js)
          else cfgLds s.cfg i next js).exec u := by
      rw [cfgLds, deviceLd, exec_ld, readLd_there hl, hu.isMatch]
    cases hmatch : cfgMatch (s.ld i j) with
    | false =>
      obtain ⟨v, hrun, hv, hexec⟩ := ih hu hjs
      refine ⟨v, ?_, hv, fun next => ?_⟩
      · rw [eligibleLds_cons, hmatch]
        exact hrun
      · rw [hread, hmatch]
        exact hexec next
    | true =>
      obtain ⟨hi256, hj256, hio⟩ := bounds_of_ldThere hu.table hl
      have hi : (BitVec.ofNat 8 i).toNat = i := Nat.mod_eq_of_lt hi256
      have hj : (BitVec.ofNat 8 j).toNat = j := Nat.mod_eq_of_lt hj256
      obtain ⟨w, hdevice, hframe, hexec⟩ :=
        exec_cfgDevice_frame (i := BitVec.ofNat 8 i) (j := BitVec.ofNat 8 j) hu.ready (by rwa [hi, hj])
          (by rwa [hi, hj])
      rw [hi, hj] at hframe
      rw [hi, hj, hu.cfg] at hexec
      have hw : AllFrame T s w :=
        ⟨hu.toCfgFrame.trans (hframe.mono fun i' j' h => h.1 ▸ h.2 ▸ hT j hmatch), hframe.pnpReady hu.ready,
          tableInv_exec hu.table hdevice⟩
      obtain ⟨v, hrun, hv, hexec'⟩ := ih hw hjs
      refine ⟨v, ?_, hv, fun next => ?_⟩
      · rw [eligibleLds_cons, hmatch]
        exact (runInstrs_cons hdevice).trans hrun
      · rw [hread, hmatch]
        exact (hexec _).trans (hexec' next)

/-- The listed cards are their eligible logical devices, one `CFG.DEVICE` after another. -/
theorem exec_cfgCards (hu : AllFrame T s u)
    (hT : ∀ i j, (s.device i).crd.valid = true → cfgMatch (s.ld i j) = true → T i j) (is : List Nat) :
    ∃ v, runInstrs (is.flatMap (eligibleCard s)) u = .next v ∧ AllFrame T s v ∧ (cfgCards s.cfg is).exec u = v := by
  induction is generalizing u with
  | nil => exact ⟨u, rfl, hu, rfl⟩
  | cons i is ih =>
    rw [List.flatMap_cons, eligibleCard, cfgCards, exec_test, hu.valid, exec_nat, (hu.card i).1]
    cases hvalid : (s.device i).crd.valid with
    | false => exact ih hu
    | true =>
      obtain ⟨w, hrun, hw, hexec⟩ := exec_cfgLds hu (fun j => hT i j hvalid)
        (js := List.range (s.device i).crd.lds.length) fun j hj => (ldThere_iff s i j).2 (List.mem_range.1 hj)
      obtain ⟨v, hrun', hv, hexec'⟩ := ih hw
      exact ⟨v, (runInstrs_append hrun).trans hrun', hv, (hexec _).trans hexec'⟩

theorem exec_cfgAll_run (h : PnpReady s) : exec .cfgAll s = .next ((cfgAll s.cfg).exec s) :=
  operate_pnp h (rs := []) nofun (steady_cfgAll s.cfg)

end

end Sys2Proof.Machine

/-! What the statements say of the allocator, each from the lemmas above. -/

namespace Sys2Proof.Allocator

open Machine

/-- Settles O27: the test is the identity's. -/
theorem cfgMatch : Obligations.CfgMatch := fun i j s hmain hquiet hl =>
  ⟨Machine.cfgMatch (s.ld i.toNat j.toNat), cfgMatch_iff _, exec_cfgMatch_there hmain hquiet hl⟩

/-- Settles O28: each operation by its writes, an IRQ by whether the line is offered. -/
theorem cfgCommits : Obligations.CfgCommits := by
  refine fun i j s h => ⟨fun hi => ⟨_, selected_ports s.cfg hi j, exec_cfgSelect_run h i j⟩,
    ⟨_, activation_ports s.cfg j s, exec_cfgActivate_run h i j⟩,
    fun hl => ⟨fun r hr hmask hinfo => ?_, fun hnone => ?_⟩⟩
  · have hoffered := irqOffered_eq_some.2 ⟨hr, hmask, hinfo⟩
    exact ⟨_, irqWritten_ports r s, by rw [exec_cfgIrq_there h hl, hoffered]; rfl⟩
  · have hoffered : irqOffered (s.ld i.toNat j.toNat) = none := by
      rw [Option.eq_none_iff_forall_ne_some]
      intro r hr
      obtain ⟨hirq, hmask, hinfo⟩ := irqOffered_eq_some.1 hr
      rcases hnone r hirq with hno | hno
      · exact absurd hmask (by rw [hno]; exact Bool.false_ne_true)
      · exact absurd hinfo (by rw [hno]; exact Bool.false_ne_true)
    rw [exec_cfgIrq_there h hl, hoffered, irqEnded, raise_logged rfl]
    rfl

/-- Settles O29: the probe is one sweep of its ports in order. -/
theorem cfgProbe : Obligations.CfgProbe := by
  refine fun base len s hmain hquiet => ⟨?_, ?_⟩
  · obtain ⟨clean, es, t, hswept, hports, hexec, -⟩ :=
      exec_probeSweep (probeOrder s.cfg.probePasses base len.toNat) s
    have hrun : exec (.cfgProbe base len) s = .next (setResult (if clean then .clean else .occupied) t) := by
      rw [exec_cfgProbe_run hmain hquiet, cfgProbeOp, cfgProbe_eq, hexec]
      rfl
    cases clean with
    | true => exact ⟨es, t, hports, .inl ⟨cleanProbe_of_swept hswept, hrun⟩⟩
    | false => exact ⟨es, t, hports, .inr ⟨occupiedProbe_of_swept hswept, hrun⟩⟩
  · rw [cleanProbe, List.length_map, length_probeOrder]

/-- Settles O30: the search from the first candidate on. -/
theorem cfgIoSearch : Obligations.CfgIoSearch := by
  intro i j k s h hl hk d passes
  obtain ⟨r, t, ⟨ess, es, hess, hends, hports⟩, hexec⟩ := exec_cfgIo i.toNat j.toNat k.toNat s.cfg s
  rw [readIo_there hk] at hess hends hports
  have hrun : exec (.cfgIo i j k) s = .next (ioEnded i.toNat j.toNat k.toNat r t) :=
    (exec_cfgIo_run h i j k).trans (congrArg _ (hexec fun _ => .done))
  simp only [Nat.zero_add] at hends
  refine ⟨ess.length, ess, t, rfl, fun m hm => by simpa only [Nat.zero_add] using hess m hm, ?_⟩
  cases hends with
  | found htried =>
    rw [← List.append_assoc, ← List.append_assoc] at hports
    exact .inl ⟨htried, hports, hrun⟩
  | exhausted huntried =>
    rw [List.append_nil] at hports
    exact .inr ⟨huntried, hports, hrun.trans (congrArg _ (raise_logged rfl t))⟩

/-- Settles O31: the least aligned base is the first candidate, and its probe finds every port floating. -/
theorem cfgIoFirstCandidate : Obligations.CfgIoFirstCandidate := by
  intro i j k base rest s h hl hk d hdvd hlow hhigh htried hanswers
  have hfirst : ioCandidate d 0 = base := ioCandidate_zero_of_dvd d hdvd hlow hhigh
  subst hfirst
  obtain ⟨es, t, hports, hrest, hexec⟩ := exec_cfgIo_floating s.cfg hk htried hanswers
  have hdev : t.dev = s.dev := by rw [hports]
  refine ⟨_, (exec_cfgIo_run h i j k).trans (congrArg _ (hexec fun _ => .done)), setResult_result _ _, ?_, hrest⟩
  have hrange := ioRange_modIo_self (s := t) ((ldThere_congr hdev _ _).2 hl) (by rwa [ld_congr hdev])
    fun x => { x with assigned := some (BitVec.ofNat 16 (ioCandidate d 0)) }
  exact congrArg IoRange.assigned hrange

/-- Settles O32: its parts run in order up to the first that fails; only where none does is the device activated. -/
theorem cfgDevice : Obligations.CfgDevice := by
  intro i j s h hl hio parts ran
  obtain ⟨ok, u, hparts, hframe, hexec⟩ := exec_cfgDevice_parts h hl hio
  have hselect (m : Nat) : runInstrs (.cfgSelect i j :: parts.take m) s =
      runInstrs (parts.take m) (selected s.cfg i.toNat j.toNat s) := runInstrs_cons (exec_cfgSelect_run h i j)
  have hran {m : Nat} {w : State} (hm : runInstrs (parts.take m) (selected s.cfg i.toNat j.toNat s) = .next w) :
      ran m w := (hselect m).trans hm
  have hpassed {n : Nat} (hn : Passed parts (selected s.cfg i.toNat j.toNat s) n) :
      ∀ m < n, ∃ w, ran (m + 1) w ∧ w.result = .ok := fun m hm =>
    let ⟨w, hw, hresult⟩ := hn m hm
    ⟨w, hran hw, hresult⟩
  have hdevice : exec (.cfgDevice i j) s = .next (deviceEnded s.cfg i.toNat j.toNat ok u) :=
    (exec_cfgDevice_run h i j).trans (congrArg _ (hexec .done))
  cases ok with
  | true =>
    obtain ⟨hrun, hall⟩ := hparts.all
    have hactivate := exec_cfgActivate_run (hframe.1.pnpReady h) i j
    rw [hframe.1.cfg] at hactivate
    have hthere : LdThere (activation s.cfg j.toNat u) i.toNat j.toNat :=
      (hframe.1.trans (cfgFrame_ports (activation_ports s.cfg j u))).ldThere hl
    refine .inl ⟨u, _, hran (by rwa [List.take_length]), hpassed hall, hactivate, ?_, hdevice⟩
    rw [markActive, ld_modLd_self hthere]
  | false =>
    obtain ⟨n, hn, hrun, hu, hbefore⟩ := hparts.first_failed
    exact .inr ⟨n, u, hn, hran hrun, hu, hpassed hbefore, hframe.2, hdevice⟩

/-- Settles O33: the eligible logical devices one after another, each of which changes that device only. -/
theorem cfgAll : Obligations.CfgAll := by
  intro s h ht
  obtain ⟨t, hrun, hframe, hexec⟩ := exec_cfgCards
    (T := fun i j => (s.device i).crd.valid = true ∧ Machine.cfgMatch (s.ld i j) = true)
    ⟨cfgFrame_refl _ s, h, ht⟩ (fun i j => And.intro) (List.range s.dev.length)
  rw [← eligible_eq] at hrun
  refine ⟨t, (exec_cfgAll_run h).trans (congrArg _ hexec), hrun, hframe.count, fun i j hno => ?_, hframe.card,
    hframe.rest⟩
  refine hframe.others i j fun ⟨hvalid, hmatch⟩ => ?_
  rcases hno with hno | hno
  · exact Bool.false_ne_true (hno.symm.trans hvalid)
  · exact hno ((cfgMatch_iff _).1 hmatch)

end Sys2Proof.Allocator

/-! PROOFS. The NIC driver: `NE.PAGE` (O34), the writing and the reading accessors (O35, O36), binding (O37), the polls
(O38) and the other initialisation steps (O39). A program is followed forward, part by part: `Reaches` says which port
accesses it has made, in which state it stands and what is left of it, and has one rule per kind of part. -/

namespace Sys2Proof.Machine

/-! ## Answers taken by accesses -/

/-- An access between two lists of dictated answers: a read takes the first of them, anything else takes none. -/
def Event.Takes : Event → List Half → List Half → Prop
  | .rd8 _ v, before, after => ∀ a rest, before = a :: rest → v = lo a ∧ after = rest
  | .rd16 _ v, before, after => ∀ a rest, before = a :: rest → v = a ∧ after = rest
  | _, before, after => after = before

/-- Accesses one after another between two lists of dictated answers. -/
def Served : List Event → List Half → List Half → Prop
  | [], before, after => after = before
  | e :: es, before, after => ∃ mid, e.Takes before mid ∧ Served es mid after

theorem served_append {es fs : List Event} {a c : List Half} :
    Served (es ++ fs) a c ↔ ∃ b, Served es a b ∧ Served fs b c := by
  induction es generalizing a with
  | nil => simp [Served]
  | cons e es ih =>
    simp only [List.cons_append, Served, ih]
    constructor
    · rintro ⟨m, he, b, hes, hfs⟩
      exact ⟨b, ⟨m, he, hes⟩, hfs⟩
    · rintro ⟨b, ⟨m, he, hes⟩, hfs⟩
      exact ⟨m, he, b, hes, hfs⟩

theorem served_singleton {e : Event} {a b : List Half} : Served [e] a b ↔ e.Takes a b := by simp [Served]

/-- The words of the FIFO are the dictated ones. -/
theorem served_fifoTrace {s : State} {ws as rest after : List Half} (h : Served (fifoTrace s ws) (as ++ rest) after)
    (hlen : as.length = ws.length) : ws = as ∧ after = rest := by
  induction ws generalizing as with
  | nil =>
    rw [List.eq_nil_of_length_eq_zero hlen] at h ⊢
    exact ⟨rfl, h⟩
  | cons w ws ih =>
    cases as with
    | nil => exact absurd hlen (by simp)
    | cons a as =>
      obtain ⟨mid, hw, hws⟩ := h
      obtain ⟨rfl, rfl⟩ := hw a (as ++ rest) rfl
      obtain ⟨rfl, hafter⟩ := ih hws (by simpa using hlen)
      exact ⟨rfl, hafter⟩

/-- From bus `b` to `b'` the port accesses `es` were made, in this order, with the dictated answers. -/
def Accesses (es : List Event) (b b' : Bus) : Prop :=
  b' = { b with trace := b.trace ++ es, answers := b'.answers, draws := b'.draws, agents := b'.agents } ∧
    Served es b.answers b'.answers

theorem accesses_refl (b : Bus) : Accesses [] b b := ⟨by simp, rfl⟩

theorem accesses_trans {es fs : List Event} {b c d : Bus} (h : Accesses es b c) (k : Accesses fs c d) :
    Accesses (es ++ fs) b d := by
  obtain ⟨hc, hes⟩ := h
  obtain ⟨hd, hfs⟩ := k
  refine ⟨?_, served_append.2 ⟨_, hes, hfs⟩⟩
  rw [hd, hc]
  simp

/-- Port accesses with the answers they took. -/
theorem accesses_of_ports {es : List Event} {s t : State} (h : PortsOnly es s t)
    (hserved : Served es s.bus.answers t.bus.answers) : Accesses es s.bus t.bus := ⟨congrArg State.bus h, hserved⟩

theorem portsOnly_of_accesses {es : List Event} {s : State} {b : Bus} (h : Accesses es s.bus b) :
    PortsOnly es s { s with bus := b } := by
  show { s with bus := b } = { s with bus := _ }
  rw [← h.1]

theorem accesses_ioRead8 (port : Half) (s : State) :
    Accesses [.rd8 port (ioRead8 port s).1] s.bus (ioRead8 port s).2.bus :=
  accesses_of_ports (ioRead8_ports port s) (served_singleton.2 fun _ _ => ioRead8_dictated port s)

theorem accesses_ioRead16 (port : Half) (s : State) :
    Accesses [.rd16 port (ioRead16 port s).1] s.bus (ioRead16 port s).2.bus :=
  accesses_of_ports (ioRead16_ports port s) (served_singleton.2 fun _ _ => ioRead16_dictated port s)

theorem accesses_ioWrite8 (port : Half) (v : Byte) (s : State) :
    Accesses [.wr8 port v] s.bus (ioWrite8 port v s).bus :=
  accesses_of_ports (ioWrite8_ports port v s) (served_singleton.2 rfl)

/-! ## A program that has made some of its parts -/

/-- The program `p` of an operation, begun in `s`, has made the parts that read `got`, latest first, and no handler run
could start after one of them: `k` is left of it, and the state is `u`. What is left depends on the parameters only as
the program does. -/
inductive Passes (p : Params → Prog) (s : State) : List Val → (Params → Prog) → State → Prop
  | start : Passes p s [] p s
  | part {got : List Val} {f : Params → State → Val × State} {k : Params → Val → Prog} {u : State} :
    Passes p s got (fun c => .act (f c) (k c)) u → Quiet (f s.cfg u).2 →
      Passes p s ((f s.cfg u).1 :: got) (fun c => k c (f s.cfg u).1) (f s.cfg u).2

/-- A part after which no handler run can start. -/
theorem run_act_quiet {f : State → Val × State} {k : Val → Prog} {s : State} (h : Quiet (f s).2) (t : Task)
    (got : List Val) : (Prog.act f k).run t got s = (k (f s).1).run t ((f s).1 :: got) (f s).2 := by
  rw [run_act, deliver_of_quiet h, if_neg (c := (_ && _) = true) (by simp)]
  split
  · next hdone => rw [isDone_eq hdone, run_done]
  · rfl

theorem after_nil (p : Prog) : p.after [] = p := by cases p <;> rfl

theorem after_done (vs : List Val) : Prog.done.after vs = .done := by cases vs <;> rfl

theorem after_append (p : Prog) (vs ws : List Val) : p.after (vs ++ ws) = (p.after vs).after ws := by
  induction vs generalizing p with
  | nil => rw [after_nil, List.nil_append]
  | cons v vs ih =>
    cases p with
    | done => exact (after_done ws).symm
    | act f k => exact ih (k v)

/-- One part more. -/
theorem after_part {p : Prog} {got : List Val} {f : State → Val × State} {k : Val → Prog}
    (h : p.after got.reverse = .act f k) (v : Val) : p.after (v :: got).reverse = k v := by
  rw [List.reverse_cons, after_append, h]
  exact after_nil _

section
variable {p k : Params → Prog} {s u : State} {got : List Val}

theorem Passes.upd {g : Params → State → State} (h : Passes p s got (fun c => .upd (g c) (k c)) u)
    (hquiet : Quiet (g s.cfg u)) : Passes p s (.unit :: got) k (g s.cfg u) := h.part hquiet

theorem Passes.run (h : Passes p s got k u) (t : Task) : (p s.cfg).run t [] s = (k s.cfg).run t got u := by
  induction h with
  | start => rfl
  | part _ hq ih => rw [ih, run_act_quiet hq]

/-- What a handler run that splits the program there leaves to be done. -/
theorem Passes.after (h : Passes p s got k u) (c : Params) : (p c).after got.reverse = k c := by
  induction h with
  | start => exact after_nil (p c)
  | part _ _ ih => exact after_part ih _

end

/-! ### A split before the last part -/

/-- Before the last part a handler run may start, and then that part waits for it (60 R301, R302). -/
theorem run_upd_last {f g : State → State} {s : State} (h : (f s).ctl.inIrq = false) (t : Task) (got : List Val) :
    (Prog.upd f (.last g)).run t got s =
      if (deliver (f s)).ctl.inIrq then suspendAs (.resume t (.unit :: got)) (deliver (f s))
      else g (deliver (f s)) := by
  rw [Prog.upd, run_act, if_neg (by exact Bool.false_ne_true), h, Bool.not_false, Bool.and_true]
  rfl

/-- The last part that was left waiting runs when the handler has returned (60 R303). -/
theorem Passes.resume_last {i : Instr} {f : Params → State → State} {g : State → State} {s u w : State} {got : List Val}
    (h : Passes (fun c => instrProg c i) s got (fun c => .upd (f c) (.last g)) u) (hmain : w.ctl.inIrq = false) :
    runTask (.resume (.op i) (.unit :: got)) w = .next (g w) := by
  have hrest : (instrProg w.cfg i).after (Val.unit :: got).reverse = .last g := after_part (h.after w.cfg) .unit
  have hrun : runTask (.resume (.op i) (.unit :: got)) w = .next (resumeTask (.op i) (.unit :: got) w) :=
    guarded_run (List.forall_mem_singleton.2 (by simp [Req.holds, hmain]))
  rw [hrun, resumeTask, taskProg, hrest]
  rfl

/-- The program `p` of an operation, begun in `s`, has made the port accesses `es`, and but for the bus it has come to
`u`, where no handler run can start; `k` is left of it. -/
structure Reaches (p : Params → Prog) (s : State) (es : List Event) (u : State) (k : Params → Prog) : Prop where
  quiet : Quiet u
  cfg : u.cfg = s.cfg
  passes : ∃ b got, Accesses es s.bus b ∧ Passes p s got k { u with bus := b }

theorem reaches_start (p : Params → Prog) {s : State} (h : Quiet s) : Reaches p s [] s p :=
  ⟨h, rfl, s.bus, [], accesses_refl s.bus, .start⟩

/-- Under a guard no handler run can start (45 R280). -/
theorem reaches_guardIf (body : Params → Prog → Prog) (k : Params → Prog) (s : State) :
    Reaches (fun c => .guardIf (body c) (k c)) s [] (setIf false s) fun c => body c (.upd (setIf s.fl.ifl) (k c)) :=
  ⟨quiet_of_if rfl, rfl, s.bus, _, accesses_refl s.bus, Passes.start.part (quiet_of_if rfl)⟩

section
variable {p k : Params → Prog} {s u : State} {es : List Event}

/-! ### One more part -/

/-- A part that reads what no port access changes. -/
theorem Reaches.look {f : State → Val} {k : Params → Val → Prog}
    (h : Reaches p s es u fun c => .act (fun w => (f w, w)) (k c)) (hf : ∀ b, f { u with bus := b } = f u) :
    Reaches p s es u fun c => k c (f u) := by
  obtain ⟨hquiet, hcfg, b, got, hb, hp⟩ := h
  have hpart := hp.part hquiet
  rw [hf b] at hpart
  exact ⟨hquiet, hcfg, b, _, hb, hpart⟩

theorem Reaches.page {k : Params → Option RegPage → Prog} (h : Reaches p s es u fun c => .page (k c)) :
    Reaches p s es u fun c => k c u.nic.page := h.look (f := fun w => .page w.nic.page) fun _ => rfl

/-- A part that neither looks at the bus nor changes it. -/
theorem Reaches.upd {g : Params → State → State} (h : Reaches p s es u fun c => .upd (g c) (k c))
    (hcalm : Calm (g s.cfg)) (hg : ∀ b, g s.cfg { u with bus := b } = { g s.cfg u with bus := b }) :
    Reaches p s es (g s.cfg u) k := by
  obtain ⟨hquiet, hcfg, b, got, hb, hp⟩ := h
  obtain ⟨hfl, hirq, hcfg'⟩ := hcalm u
  have hquiet' : Quiet (g s.cfg u) := by simpa [Quiet, State.deliverable, hfl, hirq] using hquiet
  have hpart := hp.upd (by rw [hg b]; exact hquiet')
  rw [hg b] at hpart
  exact ⟨hquiet', hcfg'.trans hcfg, b, _, hb, hpart⟩

theorem Reaches.neWr {off : Params → Half} {v : Params → Byte}
    (h : Reaches p s es u fun c => .neWr (off c) (v c) (k c)) :
    Reaches p s (es ++ [neWr u (off s.cfg) (v s.cfg)]) u k := by
  obtain ⟨hquiet, hcfg, b, got, hb, hp⟩ := h
  exact ⟨hquiet, hcfg, _, _, accesses_trans hb (accesses_ioWrite8 _ _ { u with bus := b }), hp.part hquiet⟩

theorem Reaches.neRd {off : Params → Half} {k : Params → Byte → Prog}
    (h : Reaches p s es u fun c => .neRd (off c) (k c)) :
    ∃ v, Reaches p s (es ++ [.rd8 (u.nic.iobase + off s.cfg) v]) u fun c => k c v := by
  obtain ⟨hquiet, hcfg, b, got, hb, hp⟩ := h
  exact ⟨_, hquiet, hcfg, _, _, accesses_trans hb (accesses_ioRead8 _ _), hp.part hquiet⟩

theorem Reaches.fifoRead16 {k : Params → Half → Prog} (h : Reaches p s es u fun c => fifoRead16 c (k c)) :
    ∃ w, Reaches p s (es ++ [.rd16 (u.nic.iobase + s.cfg.num.neData) w]) u fun c => k c w := by
  obtain ⟨hquiet, hcfg, b, got, hb, hp⟩ := h
  exact ⟨_, hquiet, hcfg, _, _, accesses_trans hb (accesses_ioRead16 _ _), hp.part hquiet⟩

/-! ### The accessors' parts -/

/-- The page selected already costs no access (43 R220). -/
theorem Reaches.selected {q : RegPage} (h : Reaches p s es u fun c => selectPage c q (k c))
    (hq : u.nic.page = some q) : Reaches p s es u k := by
  have hpage := h.page
  simpa only [if_pos hq] using hpage

theorem Reaches.select {q : RegPage} (h : Reaches p s es u fun c => selectPage c q (k c)) :
    ∃ v, Reaches p s (es ++ pageTrace u q v) (onPage q u) k := by
  by_cases hq : u.nic.page = some q
  · refine ⟨0, ?_⟩
    have hu : onPage q u = u := by rw [onPage, ← hq]
    rw [pageTrace, if_pos hq, List.append_nil, hu]
    exact h.selected hq
  · have hpage := h.page
    simp only [if_neg hq] at hpage
    obtain ⟨v, hread⟩ := hpage.neRd
    refine ⟨v, ?_⟩
    have hdone := hread.neWr.upd (g := fun _ => setPage (some q)) (fun _ => ⟨rfl, rfl, rfl⟩) fun _ => rfl
    rw [List.append_assoc, List.singleton_append] at hdone
    rw [pageTrace, if_neg hq, h.cfg]
    exact hdone

theorem Reaches.command {cmd : Params → Byte} (h : Reaches p s es u fun c => neCommand c (cmd c) (k c)) :
    Reaches p s (es ++ [Sys2Proof.neWr u s.cfg.num.neCr ((cmd s.cfg &&& cmdMask s.cfg.num) ||| shadowBits u)]) u k := by
  have hbits : shadowBits u = currentPageBits s.cfg.num u.nic.page := by rw [← h.cfg]; rfl
  rw [hbits]
  exact h.page.neWr

theorem Reaches.rbcrWrite {n : Half} (h : Reaches p s es u fun c => rbcrWrite c n (k c))
    (hq : u.nic.page = some .p0) :
    Reaches p s (es ++ [Sys2Proof.neWr u s.cfg.num.neRbcr0 (lo n)] ++ [Sys2Proof.neWr u s.cfg.num.neRbcr1 (hi n)]) u
      k :=
  (h.selected hq).neWr.neWr

/-- On page 0 a command carries no page bits (43 R221). -/
theorem Reaches.command_p0 {cmd : Params → Byte} (h : Reaches p s es u fun c => neCommand c (cmd c) (k c))
    (hq : u.nic.page = some .p0) :
    Reaches p s (es ++ [Sys2Proof.neWr u s.cfg.num.neCr (cmd s.cfg &&& cmdMask s.cfg.num)]) u k := by
  have hbits : shadowBits u = 0 := by simp [shadowBits, hq, pageNumber]
  have hcommand := h.command
  rwa [hbits, show (cmd s.cfg &&& cmdMask s.cfg.num) ||| 0 = cmd s.cfg &&& cmdMask s.cfg.num from BitVec.or_zero]
    at hcommand

/-- A remote read request is the page selection and its five writes (43 R226, 30 R125). -/
theorem Reaches.remoteRead {a n : Half} (h : Reaches p s es u fun c => remoteRead c a n (k c)) :
    ∃ v, Reaches p s (es ++ pageTrace u .p0 v ++ rdmaTrace u a n) (onPage .p0 u) k := by
  obtain ⟨v, hpage⟩ := h.select
  have hcount := hpage.neWr.neWr.rbcrWrite rfl
  have hdone := hcount.command_p0 rfl
  refine ⟨v, ?_⟩
  simp only [List.append_assoc, List.singleton_append, rdmaTrace, h.cfg] at hdone ⊢
  exact hdone

/-! ### The whole operation -/

/-- An operation whose preconditions hold makes the accesses and leaves what its program's last part leaves. -/
theorem operate_reaches {t : Task} {rs : List Req} {prog : Params → Prog} {fs : List Event} {g : State → State}
    (hrs : ∀ r ∈ rs, r.holds s = true) (h : Reaches prog s es u k) (hes : es = fs)
    (hg : ∀ b got, (k s.cfg).run t got { u with bus := b } = g { s with bus := b }) :
    ∃ b, Accesses fs s.bus b ∧ operate t rs prog s = .next (g { s with bus := b }) := by
  obtain ⟨-, -, b, got, hb, hp⟩ := h
  refine ⟨b, hes ▸ hb, ?_⟩
  unfold operate
  rw [guarded_run hrs, hp.run, hg]

theorem operate_ports {t : Task} {rs : List Req} {prog : Params → Prog} {fs : List Event} {g : State → State}
    (hrs : ∀ r ∈ rs, r.holds s = true) (h : Reaches prog s es u k) (hes : es = fs)
    (hg : ∀ b got, (k s.cfg).run t got { u with bus := b } = g { s with bus := b }) :
    ∃ w, PortsOnly fs s w ∧ operate t rs prog s = .next (g w) :=
  let ⟨_, hb, hrun⟩ := operate_reaches hrs h hes hg
  ⟨_, portsOnly_of_accesses hb, hrun⟩

end

theorem access_reqs {s : State} (h : AccessReady s) : ∀ r ∈ [Req.bound], r.holds s = true :=
  List.forall_mem_singleton.2 h.1

theorem init_reqs {s : State} (h : InitReady s) : ∀ r ∈ [Req.mainContext, .bound], r.holds s = true := by
  obtain ⟨hmain, hbound, -⟩ := h
  simp [Req.holds, hmain, hbound]

/-! ## Delivery on dictated answers (60 R301; log 11) -/

theorem deliver_unasserted {s : State} (h : s.deliverable = true) {rest : List Bool}
    (hline : s.bus.lineAnswers = false :: rest) : deliver s = { s with bus := { s.bus with lineAnswers := rest } } := by
  simp [deliver, h, Bus.line, hline]

theorem deliver_taken {s : State} (h : s.deliverable = true) {rest : List Bool} {ds : List Nat}
    (hline : s.bus.lineAnswers = true :: rest) (hcountdown : s.bus.countdown = none)
    (hdelays : s.bus.delays = 0 :: ds) :
    deliver s = takeInterrupt { s with bus := { s.bus with lineAnswers := rest, delays := ds } } := by
  simp [deliver, h, Bus.line, hline, Bus.wait, hcountdown, hdelays]

/-! ## The page (43 R220) -/

theorem pageOf_eq (p : Nat) : pageOf p = if p = 1 then .p1 else if p = 2 then .p2 else .p0 := by
  unfold pageOf
  split <;> simp_all

theorem pageNumber_pageOf (p : Nat) : pageNumber (pageOf p) = if p = 1 then 1 else if p = 2 then 2 else 0 := by
  rw [pageOf_eq]
  split
  · rfl
  · split <;> rfl

section
variable {s : State}

/-- `NE.PAGE` selects the page with the accesses this needs. -/
theorem exec_nePage (h : AccessReady s) (p : Nat) :
    ∃ v t, PortsOnly (pageTrace s (pageOf p) v) s t ∧ exec (.nePage p) s = .next (onPage (pageOf p) t) := by
  obtain ⟨v, hpage⟩ := (reaches_start (nePage p) h.2).select
  exact ⟨v, operate_ports (access_reqs h) hpage rfl fun _ _ => rfl⟩

theorem exec_nePage_selected (h : AccessReady s) {p : Nat} (hp : s.nic.page = some (pageOf p)) :
    exec (.nePage p) s = .next s := by
  have hrun : exec (.nePage p) s = .next ((nePage p s.cfg).exec s) :=
    operate_steady (access_reqs h) (steady_selectPage s.cfg _ steady_done) h.2
  rw [hrun, nePage, selectPage, exec_page, if_pos hp, exec_done]

theorem accessReady_onPage {es : List Event} {t : State} (h : AccessReady s) (hports : PortsOnly es s t) (p : RegPage) :
    AccessReady (onPage p t) := by
  rw [hports]
  exact h

/-- A second selection of the same page changes nothing (43 R242). -/
theorem runInstrs_nePage_twice (h : AccessReady s) {p q : Nat} (hpq : pageOf p = pageOf q) :
    runInstrs [.nePage p, .nePage q] s = runInstrs [.nePage p] s := by
  obtain ⟨v, t, hports, hexec⟩ := exec_nePage h p
  rw [runInstrs_cons hexec, runInstrs_cons hexec,
    runInstrs_cons (exec_nePage_selected (accessReady_onPage h hports _) (congrArg some hpq))]

end

/-! ## The writing accessors (43 R221 to R226, R228, R229) -/

section
variable {s : State}

theorem exec_command (h : AccessReady s) (t : Task) (cmd : Params → Byte) :
    ∃ w, PortsOnly [neWr s s.cfg.num.neCr ((cmd s.cfg &&& cmdMask s.cfg.num) ||| shadowBits s)] s w ∧
      operate t [.bound] (fun c => neCommand c (cmd c) .done) s = .next w :=
  operate_ports (access_reqs h) (reaches_start (fun c => neCommand c (cmd c) .done) h.2).command rfl fun _ _ => rfl

/-- One register written on its page. -/
theorem exec_write (h : Quiet s) {rs : List Req} (hrs : ∀ r ∈ rs, r.holds s = true) (t : Task) (p : RegPage)
    (off : Params → Half) (v : Params → Byte) :
    ∃ x w, PortsOnly (pageTrace s p x ++ [neWr s (off s.cfg) (v s.cfg)]) s w ∧
      operate t rs (fun c => selectPage c p (.neWr (off c) (v c) .done)) s = .next (onPage p w) := by
  obtain ⟨x, hpage⟩ := (reaches_start (fun c => selectPage c p (.neWr (off c) (v c) .done)) h).select
  exact ⟨x, operate_ports hrs hpage.neWr rfl fun _ _ => rfl⟩

/-- Two registers of page 0 written with a word, low byte first. -/
theorem exec_write16 (h : AccessReady s) (t : Task) (off off' : Params → Half) (v : Half) :
    ∃ x w, PortsOnly (pageTrace s .p0 x ++
        [neWr s (off s.cfg) (v.extractLsb' 0 8), neWr s (off' s.cfg) (v.extractLsb' 8 8)]) s w ∧
      operate t [.bound] (fun c => selectPage c .p0 (.neWr (off c) (lo v) (.neWr (off' c) (hi v) .done))) s =
        .next (onPage .p0 w) := by
  obtain ⟨x, hpage⟩ :=
    (reaches_start (fun c => selectPage c .p0 (.neWr (off c) (lo v) (.neWr (off' c) (hi v) .done))) h.2).select
  rw [← lo_eq_extractLsb', ← hi_eq_extractLsb']
  exact ⟨x, operate_ports (access_reqs h) hpage.neWr.neWr (List.append_assoc _ [_] [_]) fun _ _ => rfl⟩

theorem exec_neRdmaRead (h : AccessReady s) {n : Half} (hn : n ≠ 0) (a : Half) :
    ∃ x w, PortsOnly (pageTrace s .p0 x ++ rdmaTrace s a n) s w ∧
      exec (.neRdmaRead a n) s = .next (onPage .p0 w) := by
  obtain ⟨x, hdone⟩ := (reaches_start (neRdmaRead a n) h.2).remoteRead
  have hreqs : ∀ r ∈ [Req.bound, .nonzero n], r.holds s = true := by simpa [Req.holds, h.1] using hn
  exact ⟨x, operate_ports hreqs hdone rfl fun _ _ => rfl⟩

theorem exec_neRdmaRead_zero (h : AccessReady s) (a : Half) : exec (.neRdmaRead a 0) s = .refused .zeroCount :=
  operate_refused (rs := []) (access_reqs h) (q := .nonzero 0) rfl rfl

theorem offset_reqs (h : AccessReady s) {reg : Byte} (hreg : reg.toNat ≤ 0x1F) :
    ∀ r ∈ [Req.bound, .offset reg], r.holds s = true := by simpa [Req.holds, h.1] using hreg

/-- Beyond the five-bit window (log 32). -/
theorem operate_badOffset (h : AccessReady s) {reg : Byte} (hreg : 0x1F < reg.toNat) (t : Task) (p : Params → Prog) :
    operate t [.bound, .offset reg] p s = .refused .badOffset :=
  operate_refused (rs := []) (access_reqs h) (decide_eq_false (Nat.not_le.2 hreg)) rfl

theorem exec_neRegWr (h : AccessReady s) {reg : Byte} (hreg : reg.toNat ≤ 0x1F) (v : Byte) :
    ∃ w, PortsOnly [neWr s (BitVec.ofNat 16 reg.toNat) v] s w ∧ exec (.neRegWr reg v) s = .next w := by
  rw [BitVec.ofNat_toNat]
  exact operate_ports (prog := fun _ => .neWr (reg.setWidth 16) v .done) (g := id) (offset_reqs h hreg)
    (reaches_start _ h.2).neWr rfl fun _ _ => rfl

/-! ## The reading accessors (43 R222, R223, R227, R229) -/

/-- One register read on its page. -/
theorem exec_read (h : AccessReady s) (t : Task) (p : RegPage) (off : Params → Half) :
    ∃ x v w, PortsOnly (pageTrace s p x ++ [.rd8 (s.nic.iobase + off s.cfg) v]) s w ∧
      operate t [.bound] (fun c => selectPage c p (neReadOp (off c))) s =
        .next (setResult (.byte v) (onPage p w)) := by
  obtain ⟨x, hpage⟩ := (reaches_start (fun c => selectPage c p (neReadOp (off c))) h.2).select
  obtain ⟨v, hread⟩ := hpage.neRd
  exact ⟨x, v, operate_ports (access_reqs h) hread rfl fun _ _ => rfl⟩

/-- One register read on whatever page is selected. -/
theorem exec_readHere (h : Quiet s) {rs : List Req} (hrs : ∀ r ∈ rs, r.holds s = true) (t : Task)
    (off : Params → Half) :
    ∃ v w, PortsOnly [.rd8 (s.nic.iobase + off s.cfg) v] s w ∧
      operate t rs (fun c => neReadOp (off c)) s = .next (setResult (.byte v) w) ∧
      ∀ a rest, s.bus.answers = a :: rest → v = a.setWidth 8 ∧ w.bus.answers = rest := by
  obtain ⟨v, hread⟩ := (reaches_start (fun c => neReadOp (off c)) h).neRd
  obtain ⟨b, hb, hexec⟩ := operate_reaches (t := t) (prog := fun c => neReadOp (off c)) hrs hread rfl
    (g := setResult (.byte v)) fun _ _ => rfl
  exact ⟨v, _, portsOnly_of_accesses hb, hexec, served_singleton.1 hb.2⟩

theorem exec_neFifoRd16 (h : AccessReady s) :
    ∃ v w, PortsOnly (fifoTrace s [v]) s w ∧ exec .neFifoRd16 s = .next (setResult (.half v) w) ∧
      ∀ a rest, s.bus.answers = a :: rest → v = a ∧ w.bus.answers = rest := by
  obtain ⟨v, hread⟩ := (reaches_start neFifoRd16 h.2).fifoRead16
  obtain ⟨b, hb, hexec⟩ := operate_reaches (t := .op .neFifoRd16) (access_reqs h) hread rfl
    (g := setResult (.half v)) fun _ _ => rfl
  exact ⟨v, _, portsOnly_of_accesses hb, hexec, served_singleton.1 hb.2⟩

end

/-! ## Binding (43 R231) -/

theorem bindable_iff (l : LogicalDevice) : bindable l = true ↔ bindsTo l := by
  simp [bindable, bindsTo, cfgMatch_iff, and_assoc, Nat.one_le_iff_ne_zero]

theorem findNic_eq (s : State) : findNic s = (validLds s).find? bindable := by
  have hlds (ds : List Device) : (ds.flatMap fun d => if d.crd.valid then d.crd.lds else []) =
      (ds.filter fun d => d.crd.valid).flatMap fun d => d.crd.lds := by
    induction ds with
    | nil => rfl
    | cons d ds ih => cases hvalid : d.crd.valid <;> simp [hvalid, ih]
  rw [findNic, hlds, validLds]

/-- The driver bound at base `b` (43 R231). -/
def boundAt (b : Half) (s : State) : State :=
  { s with nic := { s.nic with iobase := b, page := none, qh := .queueQ, bound := true } }

section
variable {s u : State}

theorem findNic_eq_none (h : ∀ l ∈ validLds s, ¬ bindsTo l) : findNic s = none := by
  rw [findNic_eq, List.find?_eq_none]
  exact fun l hl hbind => h l hl ((bindable_iff l).1 hbind)

theorem findNic_eq_some {pre post : List LogicalDevice} {l : LogicalDevice} (hlds : validLds s = pre ++ l :: post)
    (hpre : ∀ l' ∈ pre, ¬ bindsTo l') (hl : bindsTo l) : findNic s = some l := by
  rw [findNic_eq, List.find?_eq_some_iff_append]
  refine ⟨(bindable_iff l).2 hl, pre, post, hlds, fun l' hl' => ?_⟩
  rw [Bool.not_eq_true', ← Bool.not_eq_true, bindable_iff]
  exact hpre l' hl'

theorem exec_bind_none (h : bindBase s = (none, u)) (onBound onNone : Prog) :
    (bind onBound onNone).exec s = onNone.exec (raise .noNic u) := by
  rw [bind, exec_base, h]
  rfl

theorem exec_bind_some {b : Half} (h : bindBase s = (some b, u)) (onBound onNone : Prog) :
    (bind onBound onNone).exec s = onBound.exec (boundAt b u) := by
  rw [bind, exec_base, h]
  rfl

theorem exec_neBind (hmain : s.ctl.inIrq = false) (hquiet : Quiet s) :
    exec .neBind s = .next ((neBind s.cfg).exec s) :=
  operate_steady (rs := [.mainContext]) (by simp [Req.holds, hmain]) (steady_instr s.cfg .neBind rfl) hquiet

theorem exec_neInit (hmain : s.ctl.inIrq = false) (hquiet : Quiet s) (hphase : s.phase = .configured) :
    exec .neInit s = .next ((neInit s.cfg).exec s) :=
  operate_steady (rs := [.mainContext, .phaseIs .configured]) (by simp [Req.holds, hmain, hphase])
    (steady_instr s.cfg .neInit rfl) hquiet

theorem exec_neInit_refused (hmain : s.ctl.inIrq = false) (hphase : s.phase ≠ .configured) :
    exec .neInit s = .refused .badPhase :=
  operate_refused (pre := [.mainContext]) (q := .phaseIs .configured) (rs := []) (by simp [Req.holds, hmain])
    (decide_eq_false hphase) rfl

/-- With a base to take, `NE.BIND` and `NE.INIT` bind to it. -/
theorem exec_binding {b : Half} (hmain : s.ctl.inIrq = false) (hquiet : Quiet s) (hbase : bindBase s = (some b, u)) :
    exec .neBind s = .next (setResult .ok (boundAt b u)) ∧
      (s.phase = .configured → exec .neInit s = .next (push initTail (boundAt b u))) := by
  refine ⟨?_, fun hphase => ?_⟩
  · rw [exec_neBind hmain hquiet, neBind, exec_bind_some hbase, exec_answer]
  · rw [exec_neInit hmain hquiet hphase, neInit, exec_bind_some hbase, exec_last]

end

/-! ## The polls (43 R232, R237) -/

/-- After a poll of `NE.RESET` that read `st` (43 R232). -/
def resetPolled (c : Params) (st : Byte) (s : State) : State :=
  if st.getLsbD c.num.isrRst then setPhase .neReset s else push [.resetPoll] s

/-- After a poll of `NE.START` that read `st` (43 R237). -/
def startPolled (c : Params) (st : Byte) (s : State) : State :=
  if st.getLsbD c.num.isrRst then push [.startPoll] s else setPhase .neStarted s

theorem resetPolled_eq (c : Params) (st : Byte) :
    resetPolled c st = if st.getLsbD c.num.isrRst then setPhase .neReset else push [.resetPoll] := by
  funext s
  rw [resetPolled, ite_apply]

theorem startPolled_eq (c : Params) (st : Byte) :
    startPolled c st = if st.getLsbD c.num.isrRst then push [.startPoll] else setPhase .neStarted := by
  funext s
  rw [startPolled, ite_apply]

section
variable {s : State}

theorem exec_neReset (h : InitReady s) :
    ∃ v st b, Accesses [.rd8 (s.nic.iobase + s.cfg.num.neReset) v, neWr s s.cfg.num.neReset v,
        .rd8 (s.nic.iobase + s.cfg.num.neIsr) st] s.bus b ∧
      exec .neReset s = .next (resetPolled s.cfg st { s with bus := b }) := by
  obtain ⟨v, hread⟩ := (reaches_start neReset h.2.2).neRd
  obtain ⟨st, hpoll⟩ := hread.neWr.neRd
  refine ⟨v, st, operate_reaches (init_reqs h) hpoll rfl fun _ _ => ?_⟩
  rw [resetPolled_eq]
  rfl

theorem runTask_resetPoll (h : InitReady s) :
    ∃ st t, PortsOnly [.rd8 (s.nic.iobase + s.cfg.num.neIsr) st] s t ∧
      runTask .resetPoll s = .next (resetPolled s.cfg st t) := by
  obtain ⟨st, hpoll⟩ := (reaches_start resetPoll h.2.2).neRd
  refine ⟨st, operate_ports (init_reqs h) hpoll rfl fun _ _ => ?_⟩
  rw [resetPolled_eq]
  rfl

theorem exec_neStart (h : InitReady s) :
    ∃ st b, Accesses [neWr s s.cfg.num.neCr ((s.cfg.num.cmdStart &&& cmdMask s.cfg.num) ||| shadowBits s),
        .rd8 (s.nic.iobase + s.cfg.num.neIsr) st] s.bus b ∧
      exec .neStart s = .next (startPolled s.cfg st { s with bus := b }) := by
  obtain ⟨st, hpoll⟩ := (reaches_start neStart h.2.2).command.neRd
  refine ⟨st, operate_reaches (init_reqs h) hpoll rfl fun _ _ => ?_⟩
  rw [startPolled_eq]
  rfl

theorem runTask_startPoll (h : InitReady s) :
    ∃ st t, PortsOnly [.rd8 (s.nic.iobase + s.cfg.num.neIsr) st] s t ∧
      runTask .startPoll s = .next (startPolled s.cfg st t) := by
  obtain ⟨st, hpoll⟩ := (reaches_start startPoll h.2.2).neRd
  refine ⟨st, operate_ports (init_reqs h) hpoll rfl fun _ _ => ?_⟩
  rw [startPolled_eq]
  rfl

end

/-! ## The other steps (43 R233 to R236, R238) -/

section
variable {s : State}

theorem exec_neBasicinit (h : InitReady s) :
    ∃ v t, PortsOnly (pageTrace s .p0 v ++ [neWr s s.cfg.num.neCr (s.cfg.num.cmdStop &&& cmdMask s.cfg.num),
        neWr s s.cfg.num.neDcr s.cfg.dcrInit, neWr s s.cfg.num.neRbcr0 0x00, neWr s s.cfg.num.neRbcr1 0x00,
        neWr s s.cfg.num.neRcr s.cfg.rcrInit, neWr s s.cfg.num.neTcr s.cfg.tcrInit]) s t ∧
      exec .neBasicinit s = .next (setPhase .neBasicInit (onPage .p0 t)) := by
  obtain ⟨v, hpage⟩ := (reaches_start neBasicinit h.2.2).select
  have hdone := ((hpage.command_p0 rfl).neWr.rbcrWrite rfl).neWr.neWr
  refine ⟨v, operate_ports (init_reqs h) hdone ?_ fun _ _ => rfl⟩
  simp only [List.append_assoc, List.cons_append, List.nil_append]
  rfl

/-! ### The PROM (43 R234) -/

/-- The first words of the PROM stored, low byte first. -/
def promStored (ws : List Half) (s : State) : State :=
  { s with
    nic := { s.nic with prom := wordsBytes ws ++ s.nic.prom.drop (2 * ws.length) }
    wr := { s.wr with prom := s.wr.prom || !ws.isEmpty } }

theorem promStored_nil (s : State) : promStored [] s = s := by simp [promStored, wordsBytes]

theorem set_set_append_drop {α : Type} {xs ys : List α} (h : ys.length + 1 < xs.length) (a b : α) :
    ((ys ++ xs.drop ys.length).set ys.length a).set (ys.length + 1) b = ys ++ [a, b] ++ xs.drop (ys.length + 2) := by
  rw [List.drop_eq_getElem_cons (Nat.lt_of_succ_lt h), List.drop_eq_getElem_cons h]
  simp [-List.getElem_cons_drop]

/-- The two bytes of one word more. -/
theorem setProm_promStored (hprom : s.nic.prom.length = 32) {ws : List Half} (hws : ws.length < 16) (w : Half) :
    setProm (2 * ws.length + 1) (hi w) (setProm (2 * ws.length) (lo w) (promStored ws s)) =
      promStored (ws ++ [w]) s := by
  have hset := set_set_append_drop (xs := s.nic.prom) (ys := wordsBytes ws) (by rw [length_wordsBytes]; omega)
    (lo w) (hi w)
  rw [length_wordsBytes] at hset
  have hbytes : wordsBytes (ws ++ [w]) = wordsBytes ws ++ [lo w, hi w] := by simp [wordsBytes]
  simp [promStored, setProm, hset, hbytes, Nat.mul_add]

theorem promStored_whole (hprom : s.nic.prom.length = 32) {ws : List Half} (hws : ws.length = 16) :
    promStored ws s = { s with
      nic := { s.nic with prom := ws.flatMap fun w => [w.extractLsb' 0 8, w.extractLsb' 8 8] }
      wr := { s.wr with prom := true } } := by
  have hne : ws ≠ [] := List.ne_nil_of_length_pos (hws ▸ by decide)
  simp [promStored, wordsBytes, lo_eq_extractLsb', hi_eq_extractLsb', hws, ← hprom, hne]

theorem Reaches.promWords {p : Params → Prog} {u : State} (hprom : u.nic.prom.length = 32) {n : Nat} {ws : List Half}
    (hn : ws.length + n = 16) {es : List Event} (h : Reaches p s es (promStored ws u) fun c => promWords c n) :
    ∃ ws', ws'.length = n ∧ Reaches p s (es ++ fifoTrace u ws') (promStored (ws ++ ws') u) fun _ => .done := by
  induction n generalizing ws es with
  | zero => exact ⟨[], rfl, by rwa [fifoTrace, List.map_nil, List.append_nil, List.append_nil]⟩
  | succ n ih =>
    obtain ⟨w, hword⟩ := h.fifoRead16
    have hindex : 15 - n = ws.length := by omega
    have hstored := (hword.upd (g := fun _ => setProm (2 * (15 - n)) (lo w)) (fun _ => ⟨rfl, rfl, rfl⟩)
      fun _ => rfl).upd (g := fun _ => setProm (2 * (15 - n) + 1) (hi w)) (fun _ => ⟨rfl, rfl, rfl⟩) fun _ => rfl
    rw [hindex, setProm_promStored hprom (by omega)] at hstored
    obtain ⟨ws', hlen, hdone⟩ := ih (by simp; omega) hstored
    refine ⟨w :: ws', by rw [List.length_cons, hlen], ?_⟩
    rw [List.append_assoc, List.append_assoc, ← h.cfg] at hdone
    exact hdone

/-- On page 0 the request takes no answer, so the words are the dictated ones. -/
theorem served_prom {ws as rest after : List Half} {v : Byte} {a n : Half} (hpage : s.nic.page = some .p0)
    (h : Served (pageTrace s .p0 v ++ rdmaTrace s a n ++ fifoTrace s ws) (as ++ rest) after)
    (hlen : as.length = ws.length) : ws = as ∧ after = rest := by
  rw [pageTrace, if_pos hpage, List.nil_append] at h
  obtain ⟨mid, hwrites, hwords⟩ := served_append.1 h
  obtain ⟨_, rfl, _, rfl, _, rfl, _, rfl, _, rfl, rfl⟩ := hwrites
  exact served_fifoTrace hwords hlen

theorem exec_neProm (h : InitReady s) (hprom : s.nic.prom.length = 32) :
    ∃ v ws b, ws.length = 16 ∧
      Accesses (pageTrace s .p0 v ++ rdmaTrace s 0x0000 32 ++ fifoTrace s ws) s.bus b ∧
      exec .neProm s = .next (promStored ws (onPage .p0 { s with bus := b })) := by
  obtain ⟨v, hrequest⟩ := (reaches_start neProm h.2.2).remoteRead
  rw [← promStored_nil (onPage .p0 s)] at hrequest
  obtain ⟨ws, hlen, hdone⟩ := hrequest.promWords (u := onPage .p0 s) hprom rfl
  obtain ⟨b, hb, hexec⟩ := operate_reaches (t := .op .neProm) (init_reqs h) hdone rfl
    (g := fun t => promStored ws (onPage .p0 t)) fun _ _ => rfl
  exact ⟨v, ws, b, hlen, hb, hexec⟩

/-! ### The station address and the ring (43 R235, R236) -/

theorem Reaches.parWrites {p k : Params → Prog} {u : State} {es : List Event} {n : Nat}
    (h : Reaches p s es u fun c => parWrites c (k c) (n + 1)) :
    Reaches p s (es ++ [Sys2Proof.neWr u (s.cfg.num.nePar0 + BitVec.ofNat 16 (5 - n)) (promByte (5 - n) u)]) u
      fun c => parWrites c (k c) n :=
  (h.look (f := fun w => .byte (promByte (5 - n) w)) fun _ => rfl).neWr

theorem exec_neMac (h : InitReady s) (hwritten : s.wr.prom = true) {a b c d e f : Byte} {rest : List Byte}
    (hprom : s.nic.prom = [a, b, c, d, e, f] ++ rest) :
    ∃ v t, PortsOnly (pageTrace s .p1 v ++ [neWr s s.cfg.num.nePar0 a, neWr s (s.cfg.num.nePar0 + 1) b,
        neWr s (s.cfg.num.nePar0 + 2) c, neWr s (s.cfg.num.nePar0 + 3) d, neWr s (s.cfg.num.nePar0 + 4) e,
        neWr s (s.cfg.num.nePar0 + 5) f]) s t ∧
      exec .neMac s = .next (setPhase .neMacProgrammed (onPage .p1 t)) := by
  obtain ⟨v, hpage⟩ := (reaches_start neMac h.2.2).select
  have hdone := hpage.parWrites.parWrites.parWrites.parWrites.parWrites.parWrites
  have hreqs : ∀ r ∈ [Req.mainContext, .bound, .written .prom], r.holds s = true := by
    simp [Req.holds, State.isWritten, h.1, h.2.1, hwritten]
  refine ⟨v, operate_ports hreqs hdone ?_ fun _ _ => rfl⟩
  simp [promByte, onPage, neWr, hprom]

theorem exec_neRing (h : InitReady s) :
    ∃ v v₁ v₀ t, PortsOnly (pageTrace s .p0 v ++
        [neWr s s.cfg.num.nePstart s.cfg.ringStart, neWr s s.cfg.num.nePstop s.cfg.ringStop,
          neWr s s.cfg.num.neBnry s.cfg.ringStart] ++
        [.rd8 (s.nic.iobase + s.cfg.num.neCr) v₁, neWr s s.cfg.num.neCr (pageCommand s.cfg.num v₁ .p1),
          neWr s s.cfg.num.neCurr s.cfg.ringStart] ++
        [.rd8 (s.nic.iobase + s.cfg.num.neCr) v₀, neWr s s.cfg.num.neCr (pageCommand s.cfg.num v₀ .p0)]) s t ∧
      exec .neRing s =
        .next (setPhase .neRingConfigured (setNextPkt s.cfg.ringStart (onPage .p0 t))) := by
  obtain ⟨v, hpage⟩ := (reaches_start neRing h.2.2).select
  obtain ⟨v₁, hpage₁⟩ := (hpage.neWr.neWr.selected rfl).neWr.select
  obtain ⟨v₀, hpage₀⟩ := hpage₁.neWr.select
  have hdone := hpage₀.upd (g := fun c => setNextPkt c.ringStart) (fun _ => ⟨rfl, rfl, rfl⟩) fun _ => rfl
  refine ⟨v, v₁, v₀, operate_ports (init_reqs h) hdone ?_ fun _ _ => rfl⟩
  simp only [List.append_assoc, List.cons_append, List.nil_append]
  rfl

/-! ### Clearing the loopback (43 R240) -/

theorem exec_neLbclr (hmain : s.ctl.inIrq = false) (hbound : s.nic.bound = true) :
    ∃ v got t, PortsOnly (pageTrace s .p0 v ++ [neWr s s.cfg.num.neDcr s.cfg.dcrRun,
        neWr s s.cfg.num.neTcr s.cfg.tcrRun]) s t ∧
      exec .neLbclr s = .next (if (deliver (onPage .p0 t)).ctl.inIrq then
          suspendAs (.resume (.op .neLbclr) got) (deliver (onPage .p0 t))
        else setPhase .neLoopbackCleared (deliver (onPage .p0 t))) ∧
      ∀ w : State, w.ctl.inIrq = false →
        runTask (.resume (.op .neLbclr) got) w = .next (setPhase .neLoopbackCleared w) := by
  obtain ⟨v, hpage⟩ := (reaches_guardIf (fun c k => selectPage c .p0 <| .neWr c.num.neDcr c.dcrRun <|
    .neWr c.num.neTcr c.tcrRun k) (fun _ => .last (setPhase .neLoopbackCleared)) s).select
  obtain ⟨-, -, b, got, hb, hp⟩ := hpage.neWr.neWr
  rw [List.append_assoc] at hb
  have hreqs : ∀ r ∈ [Req.mainContext, .bound], r.holds s = true := by simp [Req.holds, hmain, hbound]
  refine ⟨v, .unit :: got, _, portsOnly_of_accesses hb, ?_, fun w => hp.resume_last (i := .neLbclr)⟩
  have hrun : exec .neLbclr s = .next ((neLbclr s.cfg).run (.op .neLbclr) [] s) := guarded_run hreqs
  rw [hrun]
  exact congrArg _ ((hp.run _).trans (run_upd_last hmain _ _))

theorem exec_neLbclr_quiet (h : InitReady s) :
    ∃ v t, PortsOnly (pageTrace s .p0 v ++ [neWr s s.cfg.num.neDcr s.cfg.dcrRun,
        neWr s s.cfg.num.neTcr s.cfg.tcrRun]) s t ∧
      exec .neLbclr s = .next (setPhase .neLoopbackCleared (onPage .p0 t)) := by
  obtain ⟨hmain, hbound, hquiet⟩ := h
  obtain ⟨v, got, t, hports, hexec, -⟩ := exec_neLbclr hmain hbound
  have hquiet' : Quiet (onPage .p0 t) := by rw [hports]; exact hquiet
  have hmain' : (onPage .p0 t).ctl.inIrq = false := by rw [hports]; exact hmain
  rw [deliver_of_quiet hquiet', hmain'] at hexec
  exact ⟨v, t, hports, hexec⟩

/-! ### Hooking the handler (43 R239) -/

/-- The handler registered and the line unmasked, from bus `b`. -/
def hooked (b : Bus) (s : State) : State :=
  { s with
    fl := { s.fl with handlerSet := true, lineMasked := false }
    bus := { b with trace := s.bus.trace ++ [.registerHandler s.cfg.irqVector, .unmaskLine 5] } }

/-- No handler run can start before the line is unmasked. -/
theorem passes_neHook (h : s.fl.ifl = false ∨ s.fl.handlerSet = false ∧ s.fl.lineMasked = true) :
    Passes neHook s [.unit, .unit, .unit] (fun _ => .upd (setLineMasked false) (.last (setPhase .neInterruptsEnabled)))
      (request (.unmaskLine Config.irqChoice) (setHandler (request (.registerHandler s.cfg.irqVector) s))) := by
  have hquiet : Quiet s := by rcases h with h | ⟨h, -⟩ <;> simp [Quiet, State.deliverable, h]
  have hquiet' : Quiet (setHandler s) := by rcases h with h | ⟨-, h⟩ <;> simp [Quiet, State.deliverable, h]
  exact ((Passes.start.upd (g := fun c => request (.registerHandler c.irqVector)) hquiet).upd
    (g := fun _ => setHandler) hquiet').upd (g := fun _ => request (.unmaskLine Config.irqChoice)) hquiet'

theorem setLineMasked_requested (s : State) :
    setLineMasked false (request (.unmaskLine Config.irqChoice)
      (setHandler (request (.registerHandler s.cfg.irqVector) s))) = hooked s.bus s := by
  simp [setLineMasked, request, setHandler, Bus.emit, hooked, Config.irqChoice]

theorem exec_neHook (hmain : s.ctl.inIrq = false) (hbound : s.nic.bound = true)
    (h : s.fl.ifl = false ∨ s.fl.handlerSet = false ∧ s.fl.lineMasked = true) :
    exec .neHook s = .next (if (deliver (hooked s.bus s)).ctl.inIrq then
        suspendAs (.resume (.op .neHook) [.unit, .unit, .unit, .unit]) (deliver (hooked s.bus s))
      else setPhase .neInterruptsEnabled (deliver (hooked s.bus s))) := by
  have hreqs : ∀ r ∈ [Req.mainContext, .bound], r.holds s = true := by simp [Req.holds, hmain, hbound]
  have hrun : exec .neHook s = .next ((neHook s.cfg).run (.op .neHook) [] s) := guarded_run hreqs
  rw [hrun, (passes_neHook h).run, run_upd_last hmain, setLineMasked_requested]

theorem exec_neHook_guarded (hmain : s.ctl.inIrq = false) (hbound : s.nic.bound = true) (hif : s.fl.ifl = false) :
    exec .neHook s = .next (setPhase .neInterruptsEnabled (hooked s.bus s)) := by
  have hquiet : Quiet (hooked s.bus s) := quiet_of_if hif
  have hmain' : (hooked s.bus s).ctl.inIrq = false := hmain
  rw [exec_neHook hmain hbound (.inl hif), deliver_of_quiet hquiet, hmain', if_neg Bool.false_ne_true]

theorem deliverable_hooked {s : State} (hmain : s.ctl.inIrq = false) (hif : s.fl.ifl = true) :
    (hooked s.bus s).deliverable = true := (deliverable_iff _).2 ⟨rfl, rfl, hif, hmain⟩

theorem exec_neHook_unasserted (hmain : s.ctl.inIrq = false) (hbound : s.nic.bound = true)
    (hmasked : s.fl.handlerSet = false ∧ s.fl.lineMasked = true) (hif : s.fl.ifl = true) {rest : List Bool}
    (hline : s.bus.lineAnswers = false :: rest) :
    exec .neHook s = .next (setPhase .neInterruptsEnabled (hooked { s.bus with lineAnswers := rest } s)) := by
  have hdeliver : deliver (hooked s.bus s) = hooked { s.bus with lineAnswers := rest } s :=
    deliver_unasserted (deliverable_hooked hmain hif) hline
  have hmain' : (hooked { s.bus with lineAnswers := rest } s).ctl.inIrq = false := hmain
  rw [exec_neHook hmain hbound (.inr hmasked), hdeliver, hmain', if_neg Bool.false_ne_true]

theorem exec_neHook_taken (hmain : s.ctl.inIrq = false) (hbound : s.nic.bound = true)
    (hmasked : s.fl.handlerSet = false ∧ s.fl.lineMasked = true) (hif : s.fl.ifl = true)
    (hcountdown : s.bus.countdown = none) {rest : List Bool} {ds : List Nat}
    (hline : s.bus.lineAnswers = true :: rest) (hdelays : s.bus.delays = 0 :: ds) :
    exec .neHook s = .next (suspendAs (.resume (.op .neHook) [.unit, .unit, .unit, .unit])
      (takeInterrupt (hooked { s.bus with lineAnswers := rest, delays := ds } s))) := by
  have hdeliver : deliver (hooked s.bus s) =
      takeInterrupt (hooked { s.bus with lineAnswers := rest, delays := ds } s) :=
    deliver_taken (deliverable_hooked hmain hif) hline hcountdown hdelays
  rw [exec_neHook hmain hbound (.inr hmasked), hdeliver, takeInterrupt_ctl, if_pos rfl]

end

end Sys2Proof.Machine

namespace Sys2Proof.NicDriver

open Machine

/-- Settles O34: by whether the page is selected. -/
theorem nePage : Obligations.NePage := by
  refine ⟨fun p s h => ?_, fun _ p => by cases p <;> rfl, fun p q s h hpq => runInstrs_nePage_twice h hpq⟩
  intro m q n
  have hq : q = pageOf p := (pageOf_eq p).symm
  have hn : n = pageNumber (pageOf p) := (pageNumber_pageOf p).symm
  rw [hq, hn]
  refine ⟨exec_nePage_selected h, fun hpage => ?_⟩
  obtain ⟨v, t, hports, hexec⟩ := exec_nePage h p
  rw [pageTrace, if_neg hpage] at hports
  exact ⟨v, t, hports, hexec⟩

/-- Settles O35: commands, one register, two registers, a remote read, and a register of the window. -/
theorem neWrites : Obligations.NeWrites := by
  intro s h m command paged
  exact ⟨fun c => exec_command h _ fun _ => c, exec_command h _ fun c => c.num.cmdNodma,
    fun p => ⟨exec_command h _ fun c => commandByte c.num c.num.cmdStop p,
      exec_command h _ fun c => commandByte c.num c.num.cmdStart p,
      exec_command h _ fun c => commandByte c.num c.num.cmdRread p⟩,
    rfl,
    fun v => ⟨exec_write h.2 (access_reqs h) _ .p0 (fun c => c.num.neBnry) fun _ => v,
      exec_write h.2 (access_reqs h) _ .p1 (fun c => c.num.neCurr) fun _ => v⟩,
    fun a => ⟨exec_write16 h _ (fun c => c.num.neRsar0) (fun c => c.num.neRsar1) a,
      exec_write16 h _ (fun c => c.num.neRbcr0) (fun c => c.num.neRbcr1) a⟩,
    fun a n hn => exec_neRdmaRead h hn a, exec_neRdmaRead_zero h,
    fun reg v => ⟨fun hreg => exec_neRegWr h hreg v,
      fun hreg => operate_badOffset h hreg (.op (.neRegWr reg v)) fun _ => .neWr (reg.setWidth 16) v .done⟩⟩

/-- Settles O36: a register on its page, the FIFO, and a register of the window. -/
theorem neReads : Obligations.NeReads := by
  refine fun s h => ⟨exec_read h _ .p0 fun c => c.num.neBnry, exec_read h _ .p1 fun c => c.num.neCurr,
    exec_neFifoRd16 h, exec_readHere h.2 (access_reqs h) _ fun c => c.num.neData,
    fun reg => ⟨fun hreg => ?_, fun hreg => operate_badOffset h hreg _ _⟩⟩
  obtain ⟨v, w, hports, hexec, -⟩ :=
    exec_readHere h.2 (offset_reqs h hreg) (.op (.neRegRd reg)) fun _ => reg.setWidth 16
  rw [BitVec.ofNat_toNat]
  exact ⟨v, w, hports, hexec⟩

/-- Settles O37: by the first logical device that binds, and by whether its base was assigned. -/
theorem neBindInit : Obligations.NeBindInit := by
  intro s hmain hquiet none' tail
  refine ⟨fun hno => ?_, fun pre post l r rs hlds hpre hl hio => ?_, exec_neInit_refused hmain⟩
  · have hbase : bindBase s = (none, s) := by rw [bindBase, findNic_eq_none hno]
    refine ⟨?_, fun hphase => ?_⟩
    · rw [exec_neBind hmain hquiet, neBind, exec_bind_none hbase, raise_logged rfl]
      rfl
    · rw [exec_neInit hmain hquiet hphase, neInit, exec_bind_none hbase, raise_logged rfl]
      rfl
  · have hfirst : firstBase l = r.assigned := by rw [firstBase, hio, List.getD_cons_zero]
    have hfound : findNic s = some l := findNic_eq_some hlds hpre hl
    refine ⟨fun b hb => exec_binding hmain hquiet ?_, fun hb => ⟨drawn s, _, rfl,
      exec_binding (b := Config.unassignedBase s.bus.draws) (u := drawn s) hmain hquiet ?_⟩⟩
    · simp only [bindBase, hfound, hfirst, hb]
    · simp only [bindBase, hfound, hfirst, hb]

/-- Settles O38: each step's accesses with one poll, and the dictated answers among them. -/
theorem nePolls : Obligations.NePolls := by
  intro s h m isr
  obtain ⟨v, st, br, hr, hreset⟩ := exec_neReset h
  obtain ⟨st', bs, hs, hstart⟩ := exec_neStart h
  refine ⟨⟨v, st, _, portsOnly_of_accesses hr, hreset⟩, runTask_resetPoll h,
    ⟨st', _, portsOnly_of_accesses hs, hstart⟩, runTask_startPoll h, fun a b rest hanswers hbit => ?_,
    fun a rest hanswers hbit => ?_⟩
  · obtain ⟨-, _, hread, _, rfl, _, hpoll, hleft⟩ := hr
    obtain ⟨-, rfl⟩ := hread a _ hanswers
    obtain ⟨rfl, rfl⟩ := hpoll b rest rfl
    rw [resetPolled, show (lo b).getLsbD s.cfg.num.isrRst = true from hbit, if_pos rfl] at hreset
    exact ⟨_, hreset, rfl, hleft, rfl⟩
  · obtain ⟨-, _, rfl, _, hpoll, hleft⟩ := hs
    obtain ⟨rfl, rfl⟩ := hpoll a rest hanswers
    rw [startPolled, show (lo a).getLsbD s.cfg.num.isrRst = false from hbit, if_neg Bool.false_ne_true] at hstart
    exact ⟨_, hstart, rfl, hleft, rfl⟩

/-- Settles O39: each step's accesses, and where a handler run can start before the last part of `NE.LBCLR` and of
`NE.HOOK`, what it leaves to be done. -/
theorem neSetup : Obligations.NeSetup := by
  refine ⟨fun s h => ⟨exec_neBasicinit h, fun hlen => ?_, fun a b c d e f rest hwritten => exec_neMac h hwritten,
    exec_neRing h, exec_write h.2.2 (init_reqs h) _ .p0 (fun c => c.num.neImr) fun c => c.imrInit,
    exec_neLbclr_quiet h⟩, fun s hmain hbound => ⟨exec_neLbclr hmain hbound, exec_neHook_guarded hmain hbound,
      fun hset hmasked hif hcountdown => ⟨fun rest => exec_neHook_unasserted hmain hbound ⟨hset, hmasked⟩ hif,
        fun rest ds hline hdelays => ?_⟩⟩⟩
  · obtain ⟨v, ws, b, hwords, hb, hexec⟩ := exec_neProm h hlen
    refine ⟨v, ws, _, hwords, portsOnly_of_accesses hb, fun as rest hpage hanswers has => ?_, ?_⟩
    · exact served_prom hpage (hanswers ▸ hb.2) (has.trans hwords.symm)
    · rw [hexec, promStored_whole (s := onPage .p0 { s with bus := b }) hlen hwords]
      rfl
  · exact ⟨_, _, exec_neHook_taken hmain hbound ⟨hset, hmasked⟩ hif hcountdown hline hdelays, ⟨rfl, rfl, rfl⟩, rfl, rfl,
      rfl, fun u => (passes_neHook (.inr ⟨hset, hmasked⟩)).resume_last (i := .neHook)⟩

end Sys2Proof.NicDriver

/-! PROOFS. The receive pipeline: the handler's frame (O40), `RX.ALLOC` (O42), the reading steps and the two endings
(O43), and one iteration as its parts in order (O44) and as its law (O45). First what each part leaves, then `RX.FRAME`
as these one after another, which both statements about an iteration start from. -/

namespace Sys2Proof.Machine

/-! ## Stretches of a program -/

/-- A stretch of a program, made of parts that neither look at the contexts nor change them, and then what follows. -/
inductive Stretch : (Prog → Prog) → Prop
  | nil : Stretch fun k => k
  | act {f : State → Val × State} {p : Val → Prog → Prog}
    (hf : ∀ s c, f { s with ctl := c } = ((f s).1, { (f s).2 with ctl := c })) (hp : ∀ v, Stretch (p v)) :
    Stretch fun k => .act f fun v => p v k
  | frameRec {f : State → FrameRec × State} {p : FrameRec → Prog → Prog}
    (hf : ∀ s c, f { s with ctl := c } = ((f s).1, { (f s).2 with ctl := c })) (hp : ∀ r, Stretch (p r)) :
    Stretch fun k => .frameRec f fun r => p r k

section
variable {p q : Prog → Prog} {s : State}

theorem Stretch.upd {f : State → State} (hf : ∀ s c, f { s with ctl := c } = { f s with ctl := c })
    (hp : Stretch p) : Stretch fun k => .upd f (p k) :=
  .act (fun s c => congrArg (Prod.mk Val.unit) (hf s c)) fun _ => hp

theorem Stretch.comp (hp : Stretch p) (hq : Stretch q) : Stretch fun k => p (q k) := by
  induction hp with
  | nil => exact hq
  | act hf _ ih => exact .act hf ih
  | frameRec hf _ ih => exact .frameRec hf ih

/-- What follows runs from the state that the stretch leaves. -/
theorem Stretch.exec (hp : Stretch p) (k : Prog) (s : State) : (p k).exec s = k.exec ((p .done).exec s) := by
  induction hp generalizing s with
  | nil => rfl
  | act _ _ ih => exact ih _ _
  | frameRec _ _ ih => exact ih _ _

theorem Stretch.exec_ctl (hp : Stretch p) (s : State) (c : Control) :
    (p .done).exec { s with ctl := c } = { (p .done).exec s with ctl := c } := by
  induction hp generalizing s with
  | nil => rfl
  | @act f p hf _ ih =>
    show (p (f _).1 .done).exec (f _).2 = _
    rw [hf s c]
    exact ih _ _
  | @frameRec f p hf _ ih =>
    rw [exec_frameRec, hf s c]
    exact ih _ _

/-- A stretch leaves the contexts as they are. -/
theorem Stretch.ctl (hp : Stretch p) (s : State) : ((p .done).exec s).ctl = s.ctl :=
  (congrArg State.ctl (hp.exec_ctl s s.ctl) :)

/-- A stretch passes a result on. -/
theorem Stretch.exec_setResult (hp : Stretch p) (r : Result) (s : State) :
    (p .done).exec (setResult r s) = setResult r ((p .done).exec s) := by
  have hctl : (setResult r ((p .done).exec s)).ctl = (setResult r s).ctl := by
    simp [setResult, State.setActive, State.active, hp.ctl s]
  exact (hp.exec_ctl s (setResult r s).ctl).trans (by rw [← hctl]; rfl)

/-- A stretch stays in the interrupt context. -/
theorem Stretch.keepsIrq (hp : Stretch p) {k : Prog} (hk : Keeps (fun u => u.ctl.inIrq = true) k) :
    Keeps (fun u => u.ctl.inIrq = true) (p k) := by
  induction hp with
  | nil => exact hk
  | act hf _ ih =>
    refine keeps_act (fun s hs => ?_) fun v => ih v
    rw [congrArg (fun r => r.2.ctl.inIrq) (hf s s.ctl)]
    exact hs
  | frameRec hf _ ih =>
    refine keeps_frameRec (fun s hs => ?_) fun r => ih r
    rw [congrArg (fun r => r.2.ctl.inIrq) (hf s s.ctl)]
    exact hs

theorem stretch_selectPage (c : Params) (q : RegPage) : Stretch (selectPage c q) := by
  refine .act (fun _ _ => rfl) fun v => ?_
  dsimp only
  split
  · exact .nil
  · exact .act (fun _ _ => rfl) fun _ => .upd (fun _ _ => rfl) <| .upd (fun _ _ => rfl) .nil

theorem stretch_neCommand (c : Params) (cmd : Byte) : Stretch (neCommand c cmd) :=
  .act (fun _ _ => rfl) fun _ => .upd (fun _ _ => rfl) .nil

theorem stretch_remoteRead (c : Params) (addr count : Half) : Stretch (remoteRead c addr count) :=
  (stretch_selectPage c .p0).comp <| .upd (fun _ _ => rfl) <| .upd (fun _ _ => rfl) <|
    (stretch_selectPage c .p0).comp <| .upd (fun _ _ => rfl) <| .upd (fun _ _ => rfl) <|
      stretch_neCommand c c.num.cmdRread

theorem stretch_fifoWords (c : Params) {p : List Half → Prog → Prog} (hp : ∀ ws, Stretch (p ws)) (n : Nat)
    (got : List Half) : Stretch fun k => fifoWords c (fun ws => p ws k) n got := by
  induction n generalizing got with
  | zero => exact hp _
  | succ n ih => exact .act (fun _ _ => rfl) fun _ => ih _

theorem stretch_rxHdr (c : Params) : Stretch (rxHdr c) :=
  .act (fun _ _ => rfl) fun _ => (stretch_remoteRead c _ _).comp <| .act (fun _ _ => rfl) fun _ =>
    .act (fun _ _ => rfl) fun _ => .upd (fun _ _ => rfl) .nil

theorem stretch_rxAddr (c : Params) : Stretch (rxAddr c) :=
  .act (fun _ _ => rfl) fun _ => .act (fun _ _ => rfl) fun _ => (stretch_remoteRead c _ _).comp <|
    stretch_fifoWords c (fun _ => .upd (fun _ _ => rfl) .nil) _ _

theorem readFr_withCtl (s : State) (c : Control) :
    readFr { s with ctl := c } = ((readFr s).1, { (readFr s).2 with ctl := c }) := by
  unfold readFr
  dsimp only
  split <;> rfl

theorem readFilledFr_withCtl (s : State) (c : Control) :
    readFilledFr { s with ctl := c } = ((readFilledFr s).1, { (readFilledFr s).2 with ctl := c }) := by
  unfold readFilledFr
  rw [readFr_withCtl]
  dsimp only
  split <;> rfl

theorem stretch_rxPayload (c : Params) : Stretch (rxPayload c) := by
  refine .frameRec readFilledFr_withCtl fun r => stretch_fifoWords c (fun ws => ?_) _ _
  have hrest (bytes : List Byte) :
      Stretch fun k => enqueue (fun _ => completeFrame r bytes) <| .upd (setFr none) k :=
    .act (fun _ _ => rfl) fun _ => .upd (fun _ _ => rfl) <| .upd (fun _ _ => rfl) <| .upd (fun _ _ => rfl) .nil
  split
  · exact .act (fun _ _ => rfl) fun _ => hrest _
  · exact hrest _

theorem stretch_rxDrop : Stretch rxDrop :=
  .frameRec readFr_withCtl fun _ => .upd (fun _ _ => rfl) <| .upd (fun _ _ => rfl) <| .upd (fun _ _ => rfl) <|
    .upd (fun _ _ => rfl) .nil

theorem stretch_rxAdvance (c : Params) : Stretch (rxAdvance c) :=
  .upd (fun _ _ => rfl) <| (stretch_neCommand c _).comp <| .act (fun _ _ => rfl) fun _ =>
    (stretch_selectPage c .p0).comp <| .upd (fun _ _ => rfl) .nil

end

/-! ## One iteration as its parts (44 R270) -/

section
variable {c : Params} {s : State} {record buffer : Nat}

/-! `RX.ALLOC`: the record refused, the payload refused, and both given (44 R264). -/

theorem exec_rxAlloc_noRecord (k : Bool → Prog) {t : State} (ht : allocate c.frameRecSize s = (none, t)) :
    (rxAlloc c k).exec s =
      (k false).exec (setResult (.failed .allocFrame) (setFr none (logFailure .allocFrame t))) := by
  rw [rxAlloc, exec_handle, ht]
  rfl

theorem exec_rxAlloc_noPayload (k : Bool → Prog) {t u : State}
    (ht : allocate c.frameRecSize s = (some record, t)) (hu : allocate (payloadSize t).toNat t = (none, u)) :
    (rxAlloc c k).exec s = (k false).exec (setResult (.failed (.allocPayload (payloadSize t)))
      (logFailure (.allocPayload (payloadSize t)) (setFr none (release record u)))) := by
  rw [rxAlloc, exec_handle, ht]
  dsimp only
  rw [exec_reg16, exec_handle, hu]
  rfl

theorem exec_rxAlloc_granted (k : Bool → Prog) {t u : State}
    (ht : allocate c.frameRecSize s = (some record, t))
    (hu : allocate (payloadSize t).toNat t = (some buffer, u)) :
    (rxAlloc c k).exec s = (k true).exec (setResult .ok
      (setFr (some ⟨record, buffer, payloadSize t, none⟩) u)) := by
  rw [rxAlloc, exec_handle, ht]
  dsimp only
  rw [exec_reg16, exec_handle, hu]
  rfl

end

/-- `RX.ALLOC` in front of what its answer decides (44 R264). -/
theorem exec_rxAlloc_chain (c : Params) (k : Bool → Prog) (s : State) :
    (rxAlloc c k).exec s =
      (k (decide (((rxAllocOp c).exec s).result = .ok))).exec ((rxAllocOp c).exec s) := by
  unfold rxAllocOp
  rcases ht : allocate c.frameRecSize s with ⟨_ | record, t⟩
  · simp [exec_rxAlloc_noRecord _ ht]
  · rcases hu : allocate (payloadSize t).toNat t with ⟨_ | buffer, u⟩
    · simp [exec_rxAlloc_noPayload _ ht hu]
    · simp [exec_rxAlloc_granted _ ht hu]

/-- What an iteration that has its two buffers does before it advances (44 R270). -/
def frameRead (c : Params) (b : State) : State :=
  if isEthernetII ((rxAddrOp c).exec b) then (rxPayloadOp c).exec ((rxAddrOp c).exec b)
  else (rxDropOp c).exec ((rxAddrOp c).exec b)

/-- What an iteration does between its header, which has left `a`, and the advance (44 R270). -/
def frameHandled (c : Params) (a : State) : State :=
  if isRunt a then logRunt a
  else if ((rxAllocOp c).exec a).result = .ok then frameRead c ((rxAllocOp c).exec a)
  else (rxAllocOp c).exec a

/-- `RX.FRAME` is its header, what that frame asks for, and the advance (44 R270). -/
theorem exec_rxFrame_chain (c : Params) (k : Prog) (s : State) :
    (rxFrame c k).exec s = k.exec ((rxAdvanceOp c).exec (frameHandled c ((rxHdrOp c).exec s))) := by
  have hadvance (u : State) : (rxAdvance c k).exec u = k.exec ((rxAdvanceOp c).exec u) :=
    (stretch_rxAdvance c).exec k u
  unfold rxFrame rxHdrOp
  rw [(stretch_rxHdr c).exec, rxRunt, exec_test, frameHandled]
  split
  · exact hadvance _
  · rw [rxAccept, exec_rxAlloc_chain]
    split
    · next hok =>
      rw [if_pos (of_decide_eq_true hok), (stretch_rxAddr c).exec, exec_test, frameRead, rxAddrOp]
      split
      · exact ((stretch_rxPayload c).exec _ _).trans (hadvance _)
      · exact (stretch_rxDrop.exec _ _).trans (hadvance _)
    · next hno =>
      rw [if_neg fun hok => hno (decide_eq_true hok)]
      exact hadvance _

theorem keepsIrq_rxAlloc (c : Params) {k : Bool → Prog} (hk : ∀ b, Keeps (fun u => u.ctl.inIrq = true) (k b)) :
    Keeps (fun u => u.ctl.inIrq = true) (rxAlloc c k) := by
  have hcalm {f : State → State} {k : Prog} (hf : Calm f) (hk : Keeps (fun u => u.ctl.inIrq = true) k) :
      Keeps (fun u => u.ctl.inIrq = true) (.upd f k) := keeps_upd (fun s hs => (hf s).2.1.trans hs) hk
  have hresult (r : Result) (b : Bool) := hcalm (calm_setResult r) (hk b)
  refine keeps_act (fun s hs => by simpa using hs) fun v => ?_
  dsimp only
  split
  · exact keeps_upd (fun _ hs => hs) <| keeps_upd (fun _ hs => hs) (hresult _ _)
  · refine keeps_read fun n => keeps_act (fun s hs => by simpa using hs) fun v => ?_
    dsimp only
    split
    · exact keeps_upd (fun _ hs => hs) <| keeps_upd (fun _ hs => hs) <| keeps_upd (fun _ hs => hs) (hresult _ _)
    · exact keeps_upd (fun _ hs => hs) (hresult _ _)

theorem keepsIrq_rxFrame (c : Params) {k : Prog} (hk : Keeps (fun u => u.ctl.inIrq = true) k) :
    Keeps (fun u => u.ctl.inIrq = true) (rxFrame c k) := by
  have hadvance := (stretch_rxAdvance c).keepsIrq hk
  refine (stretch_rxHdr c).keepsIrq <| keeps_test (keeps_upd (fun _ hs => hs) hadvance) <|
    keepsIrq_rxAlloc c fun ok => ?_
  split
  · exact (stretch_rxAddr c).keepsIrq <| keeps_test ((stretch_rxPayload c).keepsIrq hadvance)
      (stretch_rxDrop.keepsIrq hadvance)
  · exact hadvance

theorem keepsIrq_irqLoop (c : Params) : Keeps (fun u => u.ctl.inIrq = true) (irqLoop c) := by
  refine (stretch_selectPage c .p1).keepsIrq <| keeps_act (fun _ hs => hs) fun _ => keeps_read fun _ => ?_
  dsimp only
  split
  · exact keepsIrq_rxFrame c (keeps_last fun u hu => by simpa using hu)
  · exact keepsIrq_of_steady (steady_rxAck c)

/-! ## Receive operations with one register to be written first -/

theorem operate_rx_written {s : State} {r : Reg} {t : Task} {p : Params → Prog} (h : RxReady s)
    (hr : s.isWritten r = true) (hp : Steady (p s.cfg)) :
    operate t (rxReqs ++ [.written r]) p s = .next ((p s.cfg).exec s) :=
  operate_rx h (List.forall_mem_singleton.2 hr) (keepsIrq_of_steady hp)

/-! ## Two requests to the heap (20 R75, 44 R264) -/

/-- From bus `b` to `b'` one request, recorded as `e`, was granted or not: a dictated answer is taken, and neither the
answers to port reads nor the agents change. -/
structure Asked (granted : Bool) (e : Event) (b b' : Bus) : Prop where
  agents : b'.agents = b.agents
  answers : b'.answers = b.answers
  trace : b'.trace = b.trace ++ [e]
  dictated : ∀ x rest, b.allocAnswers = x :: rest → granted = x ∧ b'.allocAnswers = rest

theorem asked_allocAnswer (b : Bus) (e : Event) : Asked b.allocAnswer.1 e b (b.allocAnswer.2.emit e) := by
  unfold Bus.allocAnswer
  split
  · next a rest h => exact ⟨rfl, rfl, rfl, fun x tail hx => List.cons.inj (h.symm.trans hx)⟩
  · next h =>
    split <;> exact ⟨rfl, rfl, rfl, fun x tail hx => nomatch h.symm.trans hx⟩

/-- A request is granted with the next fresh handle, or refused (20 R75). -/
theorem allocate_answers (n : Nat) (s : State) :
    (∃ b, Asked false (.alloc n none) s.bus b ∧ allocate n s = (none, { s with bus := b })) ∨
      ∃ b, Asked true (.alloc n (some s.heap.next)) s.bus b ∧
        allocate n s = (some s.heap.next,
          { s with heap := ⟨(s.heap.next, n) :: s.heap.live, s.heap.next + 1⟩, bus := b }) := by
  cases hanswer : s.bus.allocAnswer.1 with
  | false => exact .inl ⟨_, hanswer ▸ asked_allocAnswer s.bus _, by simp [allocate, hanswer]⟩
  | true => exact .inr ⟨_, hanswer ▸ asked_allocAnswer s.bus _, by simp [allocate, hanswer]⟩

theorem allocReqs_holds {s : State} (hhdr : s.wr.hdr = true) :
    ∀ r ∈ (if s.bus.allocAnswer.1 then [Req.written .hdr] else []), r.holds s = true := by
  split
  · exact List.forall_mem_singleton.2 hhdr
  · exact nofun

theorem exec_rxAlloc {s : State} (h : RxReady s) (hhdr : s.wr.hdr = true) :
    exec .rxAlloc s = .next ((rxAllocOp s.cfg).exec s) :=
  operate_rx h (allocReqs_holds hhdr) (keepsIrq_of_steady (steady_rxAllocOp s.cfg))

/-- A handle that is not yet given out is not live. -/
theorem filter_fresh {s : State} (h : HeapInv s) {n : Nat} (hn : s.heap.next ≤ n) :
    (s.heap.live.filter fun p => !decide (p.1 = n)) = s.heap.live := by
  refine List.filter_eq_self.2 fun p hp => ?_
  have hlt : p.1 < s.heap.next := h.1 p hp
  have hne : p.1 ≠ n := by omega
  simpa using hne

/-- How `RX.ALLOC` ends with bus `b`, by the answers to its two requests (44 R264). -/
inductive AllocEnds (s : State) : Bool → Bool → Bus → State → Prop
  | noRecord {granted : Bool} {b : Bus} (htrace : b.trace = s.bus.trace ++ [.alloc s.cfg.frameRecSize none]) :
    AllocEnds s false granted b (setResult (.failed .allocFrame)
      { s with
        log := s.log ++ [.allocFrame]
        rx := { s.rx with fr := none }
        wr := { s.wr with fr := true }
        bus := b })
  | noPayload {b : Bus} (htrace : b.trace = s.bus.trace ++ [.alloc s.cfg.frameRecSize (some s.heap.next),
      .alloc (payloadSize s).toNat none, .release s.heap.next]) :
    AllocEnds s true false b (setResult (.failed (.allocPayload (payloadSize s)))
      { s with
        log := s.log ++ [.allocPayload (payloadSize s)]
        rx := { s.rx with fr := none }
        wr := { s.wr with fr := true }
        heap := ⟨s.heap.live.filter fun p => !decide (p.1 = s.heap.next), s.heap.next + 1⟩
        bus := b })
  | granted {b : Bus} (htrace : b.trace = s.bus.trace ++ [.alloc s.cfg.frameRecSize (some s.heap.next),
      .alloc (payloadSize s).toNat (some (s.heap.next + 1))]) :
    AllocEnds s true true b (setResult .ok
      { s with
        rx := { s.rx with fr := some ⟨s.heap.next, s.heap.next + 1, payloadSize s, none⟩ }
        wr := { s.wr with fr := true }
        heap := ⟨(s.heap.next + 1, (payloadSize s).toNat) :: (s.heap.next, s.cfg.frameRecSize) :: s.heap.live,
          s.heap.next + 2⟩
        bus := b })

/-- `RX.ALLOC` ends in one of these ways, as its requests are answered (44 R264). -/
theorem exec_rxAllocOp (s : State) :
    ∃ (a₁ a₂ : Bool) (b : Bus), b.agents = s.bus.agents ∧ b.answers = s.bus.answers ∧
      (∀ x y rest, s.bus.allocAnswers = x :: y :: rest → a₁ = x ∧ (x = true → a₂ = y)) ∧
      AllocEnds s a₁ a₂ b ((rxAllocOp s.cfg).exec s) := by
  obtain ⟨b, hb, hrecord⟩ | ⟨b, hb, hrecord⟩ := allocate_answers s.cfg.frameRecSize s
  · refine ⟨false, false, b, hb.agents, hb.answers, fun x y rest hanswers => ?_, ?_⟩
    · obtain ⟨rfl, -⟩ := hb.dictated _ _ hanswers
      exact ⟨rfl, nofun⟩
    · rw [rxAllocOp, exec_rxAlloc_noRecord _ hrecord]
      exact .noRecord hb.trace
  · obtain ⟨d, hd, hpayload⟩ | ⟨d, hd, hpayload⟩ := allocate_answers (payloadSize s).toNat
      { s with heap := ⟨(s.heap.next, s.cfg.frameRecSize) :: s.heap.live, s.heap.next + 1⟩, bus := b }
    · refine ⟨true, false, d.emit (.release s.heap.next), hd.agents.trans hb.agents, hd.answers.trans hb.answers,
        fun x y rest hanswers => ?_, ?_⟩
      · obtain ⟨hx, hrest⟩ := hb.dictated _ _ hanswers
        exact ⟨hx, fun _ => (hd.dictated _ _ hrest).1⟩
      · have hends := AllocEnds.noPayload (s := s) (b := d.emit (.release s.heap.next))
          (by simp [Bus.emit, hd.trace, hb.trace])
        rw [rxAllocOp, exec_rxAlloc_noPayload _ hrecord hpayload]
        simpa [release, setFr, logFailure, payloadSize] using hends
    · refine ⟨true, true, d, hd.agents.trans hb.agents, hd.answers.trans hb.answers,
        fun x y rest hanswers => ?_, ?_⟩
      · obtain ⟨hx, hrest⟩ := hb.dictated _ _ hanswers
        exact ⟨hx, fun _ => (hd.dictated _ _ hrest).1⟩
      · rw [rxAllocOp, exec_rxAlloc_granted _ hrecord hpayload]
        exact .granted (by simp [hd.trace, hb.trace])

/-! ## What each step leaves (44 R262, R265, R267 to R269) -/

section
variable {p k : Params → Prog} {s u : State} {got : List Val} {es : List Event}

theorem Passes.exec (h : Passes p s got k u) : (p s.cfg).exec s = (k s.cfg).exec u := by
  induction h with
  | start => rfl
  | part _ _ ih => exact ih

/-- Run without its boundaries, the program has made the same accesses and come to the same state. -/
theorem Reaches.exec (h : Reaches p s es u k) :
    ∃ b, Accesses es s.bus b ∧ (p s.cfg).exec s = (k s.cfg).exec { u with bus := b } :=
  let ⟨_, _, b, _, hb, hp⟩ := h
  ⟨b, hb, hp.exec⟩

theorem Reaches.fifoWords {k : Params → List Half → Prog} {n : Nat} {ws : List Half}
    (h : Reaches p s es u fun c => fifoWords c (k c) n ws) :
    ∃ ws', ws'.length = n ∧ Reaches p s (es ++ fifoTrace u ws') u fun c => k c (ws.reverse ++ ws') := by
  induction n generalizing es ws with
  | zero =>
    refine ⟨[], rfl, ?_⟩
    rw [fifoTrace, List.map_nil, List.append_nil, List.append_nil]
    exact h
  | succ n ih =>
    obtain ⟨w, hword⟩ := h.fifoRead16
    obtain ⟨ws', hlen, hdone⟩ := ih hword
    refine ⟨w :: ws', by rw [List.length_cons, hlen], ?_⟩
    simpa [fifoTrace, h.cfg] using hdone

/-- `n` payload bytes: words, and one byte more if `n` is odd (44 R267). -/
theorem Reaches.readPayload {k : Params → List Byte → Prog} {n : Nat}
    (h : Reaches p s es u fun c => readPayload c n (k c)) :
    ∃ ws last, ws.length = n / 2 ∧ last.length = n % 2 ∧
      Reaches p s (es ++ (fifoTrace u ws ++ last.map (Event.rd8 (u.nic.iobase + u.cfg.num.neData)))) u
        fun c => k c (wordsBytes ws ++ last) := by
  obtain ⟨ws, hlen, hwords⟩ := h.fifoWords
  rcases Nat.mod_two_eq_zero_or_one n with heven | hodd
  · refine ⟨ws, [], hlen, heven.symm, ?_⟩
    simpa [heven] using hwords
  · simp only [if_pos hodd] at hwords
    obtain ⟨v, hbyte⟩ := hwords.neRd
    refine ⟨ws, [v], hlen, hodd.symm, ?_⟩
    simpa [h.cfg] using hbyte

end

theorem and_0xFFFE (n : Nat) : n &&& 0xFFFE = n % 65536 / 2 * 2 := by
  have hhalf : (n &&& 0xFFFE) / 2 = n / 2 % 2 ^ 15 := by rw [Nat.and_div_two, ← Nat.and_two_pow_sub_one_eq_mod]
  have heven : (n &&& 0xFFFE) % 2 = 0 := by
    rw [← Nat.and_one_is_mod, Nat.and_assoc]
    exact Nat.and_zero n
  omega

/-- The even count is computed in 17 bits and wraps to 0 (44 R265; log 26). -/
theorem roundup2_eq (x : Half) : roundup2 x = BitVec.ofNat 16 ((x.toNat + 1) / 2 * 2) := by
  apply BitVec.eq_of_toNat_eq
  simp [roundup2, and_0xFFFE]
  omega

section
variable {s : State}

theorem exec_rxHdrOp (h : Quiet s) :
    ∃ v w₀ w₁ b, Accesses (pageTrace s .p0 v ++ rdmaTrace s (pageAddress s.nic.nextPkt) 4 ++ fifoTrace s [w₀, w₁])
        s.bus b ∧
      (rxHdrOp s.cfg).exec s = setHeader w₀ w₁ (onPage .p0 { s with bus := b }) := by
  have hpage := (reaches_start rxHdrOp h).look (f := fun w => .byte (nextPkt w)) fun _ => rfl
  obtain ⟨v, hrequest⟩ := hpage.remoteRead
  obtain ⟨w₀, hfirst⟩ := hrequest.fifoRead16
  obtain ⟨w₁, hsecond⟩ := hfirst.fifoRead16
  obtain ⟨b, hb, hexec⟩ := hsecond.exec
  rw [List.append_assoc] at hb
  exact ⟨v, w₀, w₁, b, hb, hexec⟩

theorem exec_rxAddrOp_ports (h : Quiet s) :
    ∃ v ws b, ws.length = 7 ∧
      Accesses (pageTrace s .p0 v ++ rdmaTrace s (pageAddress s.nic.nextPkt + 4) (bodyCount s) ++ fifoTrace s ws)
        s.bus b ∧
      (rxAddrOp s.cfg).exec s = setAddresses (ethOfWords ws) (onPage .p0 { s with bus := b }) := by
  have hpage := (reaches_start rxAddrOp h).look (f := fun w => .byte (nextPkt w)) fun _ => rfl
  have hcount := hpage.look (f := fun w => .half (bodyCount w)) fun _ => rfl
  obtain ⟨v, hrequest⟩ := hcount.remoteRead
  obtain ⟨ws, hlen, hwords⟩ := hrequest.fifoWords
  obtain ⟨b, hb, hexec⟩ := hwords.exec
  exact ⟨v, ws, b, hlen, hb, hexec⟩

theorem exec_rxPayloadOp_ports (h : Quiet s) {f : FrameRec} {e : EthHeader} (hfr : s.rx.fr = some f)
    (he : f.eth = some e) :
    ∃ ws last b, ws.length = f.length.toNat / 2 ∧ last.length = f.length.toNat % 2 ∧
      Accesses (fifoTrace s ws ++ last.map (Event.rd8 (s.nic.iobase + s.cfg.num.neData))) s.bus b ∧
      (rxPayloadOp s.cfg).exec s = setFr none (appendQ [⟨f.record, f.buffer, e, f.length, wordsBytes ws ++ last⟩]
        { s with bus := b }) := by
  obtain ⟨ws, last, hws, hlast, hread⟩ := (reaches_start (fun c => readPayload c f.length.toNat fun bytes =>
    enqueue (fun _ => completeFrame f bytes) <| .upd (setFr none) .done) h).readPayload
  obtain ⟨b, hb, hexec⟩ := hread.exec
  refine ⟨ws, last, b, hws, hlast, by simpa using hb, ?_⟩
  rw [rxPayloadOp, rxPayload, exec_frameRec, readFilledFr_some hfr he]
  refine hexec.trans ?_
  rw [enqueue, exec_guardIf, completeFrame, he]
  rfl

/-- Whether the record is there says that `FR` was written (44 R268). -/
theorem exec_rxDrop_some (h : RxReady s) {f : FrameRec} (hfr : s.rx.fr = some f) (hetype : s.wr.etype = true) :
    exec .rxDrop s = .next ((rxDropOp s.cfg).exec s) :=
  operate_rx (rs := [.written .fr, .written .etype]) h (by simp [Req.holds, State.isWritten, hfr, hetype])
    (keepsIrq_of_steady (steady_rxDropOp s.cfg))

theorem exec_rxDropOp_some {f : FrameRec} (hfr : s.rx.fr = some f) :
    (rxDropOp s.cfg).exec s =
      logFailure (.ethernetI s.rx.etype) (setFr none (release f.record (release f.buffer s))) := by
  rw [rxDropOp, rxDrop, exec_frameRec, readFr_some hfr]
  rfl

theorem exec_rxAdvanceOp (h : Quiet s) :
    ∃ v b, Accesses ([neWr s s.cfg.num.neCr ((s.cfg.num.cmdNodma &&& cmdMask s.cfg.num) ||| shadowBits s)] ++
        pageTrace s .p0 v ++ [neWr s s.cfg.num.neBnry (s.rx.hdrNext - 1)]) s.bus b ∧
      (rxAdvanceOp s.cfg).exec s = onPage .p0 (advanceNext { s with bus := b }) := by
  have hnext := (reaches_start rxAdvanceOp h).upd (g := fun _ => advanceNext) (fun _ => ⟨rfl, rfl, rfl⟩) fun _ => rfl
  have hboundary := hnext.command.look (f := fun w => .byte (nextPkt w)) fun _ => rfl
  obtain ⟨v, hpage⟩ := hboundary.select
  obtain ⟨b, hb, hexec⟩ := hpage.neWr.exec
  exact ⟨v, b, hb, hexec⟩

theorem exec_rxHdr (h : RxReady s) (hnext : s.wr.nextPkt = true) :
    exec .rxHdr s = .next ((rxHdrOp s.cfg).exec s) :=
  operate_rx_written (r := .nextPkt) h hnext (steady_rxHdrOp s.cfg)

theorem exec_rxAddr_zero (h : RxReady s) (hnext : s.wr.nextPkt = true) (hhdr : s.wr.hdr = true)
    (hcount : bodyCount s = 0) : exec .rxAddr s = .refused .zeroCount := by
  have hreqs : ∀ q ∈ rxReqs ++ [.written .nextPkt, .written .hdr], q.holds s = true := by
    simpa [or_imp, forall_and, Req.holds, State.isWritten, hnext, hhdr] using rxReqs_holds h
  exact operate_refused (rs := []) (q := .nonzero (bodyCount s)) hreqs (by simp [Req.holds, hcount]) rfl

theorem exec_rxAdvance (h : RxReady s) (hhdr : s.wr.hdr = true) :
    exec .rxAdvance s = .next ((rxAdvanceOp s.cfg).exec s) :=
  operate_rx_written (r := .hdr) h hhdr (steady_rxAdvanceOp s.cfg)

end

/-! ## The handler's frame (44 R260, R261, R271) -/

section
variable {s : State}

theorem exec_rxIrq (h : RxReady s) (hnext : s.wr.nextPkt = true) :
    ∃ v st t, PortsOnly (pageTrace s .p0 v ++ [.rd8 (s.nic.iobase + s.cfg.num.neIsr) st]) s t ∧
      exec .rxIrq s = .next (push [.irqLoop] (setIsrseen st (onPage .p0 t))) := by
  obtain ⟨v, hpage⟩ := (reaches_start rxIrq (quiet_of_inIrq h.1)).select
  obtain ⟨st, hread⟩ := hpage.neRd
  obtain ⟨b, hb, hexec⟩ := hread.exec
  have hrun : exec .rxIrq s = .next ((rxIrq s.cfg).exec s) :=
    operate_rx_written (r := .nextPkt) h hnext (steady_rxIrq s.cfg)
  exact ⟨v, st, _, portsOnly_of_accesses hb, hrun.trans (congrArg _ hexec)⟩

/-- Whether a frame is pending, in front of what it decides (44 R261). -/
theorem exec_rxPending_chain (s : State) :
    ∃ v c t, PortsOnly (pageTrace s .p1 v ++ [.rd8 (s.nic.iobase + s.cfg.num.neCurr) c]) s t ∧
      ∀ k, (rxPending s.cfg k).exec s = (k (decide (s.nic.nextPkt ≠ c))).exec (onPage .p1 t) := by
  obtain ⟨v, t, hports, hpage⟩ := exec_selectPage .p1 .done s
  have hread := portsOnly_neRd hports s.cfg.num.neCurr
  refine ⟨v, _, _, hread, fun k => ?_⟩
  have hnext : s.nic.nextPkt = (ioRead8 (t.nic.iobase + s.cfg.num.neCurr) t).2.nic.nextPkt := by
    rw [portsOnly_nic hread]
  rw [rxPending, currRead, (stretch_selectPage s.cfg .p1).exec, hpage, hnext]
  rfl

theorem exec_rxAck (h : RxReady s) (hseen : s.wr.isrseen = true) :
    exec .rxAck s = .next ((rxAck s.cfg).exec s) :=
  operate_rx_written (r := .isrseen) h hseen (steady_rxAck s.cfg)

theorem exec_rxAck_ports (h : Quiet s) :
    ∃ v t, PortsOnly (pageTrace s .p0 v ++ [neWr s s.cfg.num.neIsr s.rx.isrseen]) s t ∧
      (rxAck s.cfg).exec s = onPage .p0 t := by
  obtain ⟨v, hpage⟩ := (reaches_start rxAck h).select
  have hseen := hpage.look (f := fun w => .byte (isrseen w)) fun _ => rfl
  obtain ⟨b, hb, hexec⟩ := hseen.neWr.exec
  exact ⟨v, _, portsOnly_of_accesses hb, hexec⟩

theorem exec_rxFrame (h : RxReady s) (hnext : s.wr.nextPkt = true) :
    exec .rxFrame s = .next ((rxAdvanceOp s.cfg).exec (frameHandled s.cfg ((rxHdrOp s.cfg).exec s))) := by
  rw [← exec_done ((rxAdvanceOp s.cfg).exec _), ← exec_rxFrame_chain]
  exact operate_rx (rs := [.written .nextPkt]) h (List.forall_mem_singleton.2 hnext)
    (keepsIrq_rxFrame s.cfg keeps_done)

theorem runTask_irqLoop (h : RxReady s) (hnext : s.wr.nextPkt = true) (hseen : s.wr.isrseen = true) :
    runTask .irqLoop s = .next ((irqLoop s.cfg).exec s) :=
  operate_rx (rs := [.written .nextPkt, .written .isrseen]) h
    (by simpa [Req.holds, State.isWritten] using ⟨hnext, hseen⟩) (keepsIrq_irqLoop s.cfg)

theorem rxReady_onPage {es : List Event} {t : State} (h : RxReady s) (hports : PortsOnly es s t) (p : RegPage) :
    RxReady (onPage p t) := by
  rw [hports]
  exact h

end

/-! ## One iteration, part by part (44 R270) -/

section
variable {s : State}

theorem setResult_setResult (r r' : Result) (s : State) : setResult r (setResult r' s) = setResult r s := by
  unfold setResult State.setActive State.active
  cases hirq : s.ctl.inIrq <;> simp [hirq]

theorem rxReady_setResult (h : RxReady s) (r : Result) : RxReady (setResult r s) := ⟨by simpa using h.1, h.2⟩

theorem allocate_setResult {n : Nat} {a : Option Nat} {t : State} (h : allocate n s = (a, t)) (r : Result) :
    allocate n (setResult r s) = (a, setResult r t) := by
  have hset : allocate n (setResult r s) = ((allocate n s).1, setResult r (allocate n s).2) := by
    unfold allocate
    dsimp only [setResult_bus]
    split <;> rfl
  rw [hset, h]

/-- `RX.ALLOC` writes its own result over the one that it finds. -/
theorem exec_rxAllocOp_setResult (c : Params) (r : Result) (s : State) :
    (rxAllocOp c).exec (setResult r s) = (rxAllocOp c).exec s := by
  unfold rxAllocOp
  rcases ht : allocate c.frameRecSize s with ⟨_ | record, t⟩
  · rw [exec_rxAlloc_noRecord _ ht, exec_rxAlloc_noRecord _ (allocate_setResult ht r)]
    exact setResult_setResult _ r (setFr none (logFailure .allocFrame t))
  · rcases hu : allocate (payloadSize t).toNat t with ⟨_ | buffer, u⟩
    · rw [exec_rxAlloc_noPayload _ ht hu,
        exec_rxAlloc_noPayload _ (allocate_setResult ht r) (allocate_setResult (s := t) hu r)]
      exact setResult_setResult _ r (logFailure _ (setFr none (release record u)))
    · rw [exec_rxAlloc_granted _ ht hu,
        exec_rxAlloc_granted _ (allocate_setResult ht r) (allocate_setResult (s := t) hu r)]
      exact setResult_setResult _ r (setFr _ u)

/-- What `RX.ALLOC` leaves for the parts after it: all they need, and a record where both requests were granted. -/
theorem AllocEnds.leaves {a₁ a₂ : Bool} {b : Bus} {t : State} (h : AllocEnds s a₁ a₂ b t) (hready : RxReady s) :
    RxReady t ∧ t.cfg = s.cfg ∧ t.wr.hdr = s.wr.hdr ∧ t.wr.nextPkt = s.wr.nextPkt ∧
      t.rx.hdrTotal = s.rx.hdrTotal ∧ (t.result = .ok → ∃ f, t.rx.fr = some f) := by
  obtain ⟨hirq, hrest⟩ := hready
  cases h with
  | noRecord => exact ⟨⟨by simpa using hirq, hrest⟩, rfl, rfl, rfl, rfl, by simp⟩
  | noPayload => exact ⟨⟨by simpa using hirq, hrest⟩, rfl, rfl, rfl, rfl, by simp⟩
  | granted => exact ⟨⟨by simpa using hirq, hrest⟩, rfl, rfl, rfl, rfl, fun _ => ⟨_, rfl⟩⟩

/-- The advance, whatever result the parts before it have left. -/
theorem runInstrs_rxAdvance (h : RxReady s) (hhdr : s.wr.hdr = true) (r : Result) :
    runInstrs [.rxAdvance] (setResult r s) = .next (setResult r ((rxAdvanceOp s.cfg).exec s)) :=
  (runInstrs_cons (exec_rxAdvance (rxReady_setResult h r) hhdr)).trans
    (congrArg Host.Outcome.next ((stretch_rxAdvance s.cfg).exec_setResult r s))

/-- Nothing wraps for a frame that is no runt. -/
theorem bodyCount_ne_zero (h : 64 ≤ s.rx.hdrTotal.toNat) : bodyCount s ≠ 0 := by
  have hlt : s.rx.hdrTotal.toNat < 65536 := s.rx.hdrTotal.isLt
  have hbody : (s.rx.hdrTotal - 4).toNat = s.rx.hdrTotal.toNat - 4 := by bv_omega
  intro hzero
  have hcount := congrArg BitVec.toNat ((roundup2_eq (s.rx.hdrTotal - 4)).symm.trans hzero)
  rw [hbody, BitVec.toNat_ofNat] at hcount
  have hmod : (s.rx.hdrTotal.toNat - 4 + 1) / 2 * 2 % 65536 = 0 := hcount
  omega

end

/-- Between the addresses and the advance: `FR` holds record `f` with its addresses `e`, and the Ethertype is known. -/
structure Addressed (f : FrameRec) (e : EthHeader) (s : State) : Prop where
  ready : RxReady s
  hdr : s.wr.hdr = true
  etype : s.wr.etype = true
  fr : s.rx.fr = some f
  eth : f.eth = some e

section
variable {s : State} {f : FrameRec} {e : EthHeader}

theorem exec_rxAddr_addressed (h : RxReady s) (hnext : s.wr.nextPkt = true) (hhdr : s.wr.hdr = true)
    (hlen : 64 ≤ s.rx.hdrTotal.toNat) (hfr : s.rx.fr = some f) :
    exec .rxAddr s = .next ((rxAddrOp s.cfg).exec s) ∧ ((rxAddrOp s.cfg).exec s).cfg = s.cfg ∧
      ∃ e, Addressed { f with eth := some e } e ((rxAddrOp s.cfg).exec s) := by
  obtain ⟨v, ws, b, -, -, hexec⟩ := exec_rxAddrOp_ports (quiet_of_inIrq h.1)
  refine ⟨exec_rxAddr h hnext hhdr (bodyCount_ne_zero hlen), ?_⟩
  rw [hexec]
  exact ⟨rfl, ethOfWords ws, h, hhdr, rfl, by simp [onPage, hfr], rfl⟩

theorem Addressed.exec_rxClassify (h : Addressed f e s) :
    exec .rxClassify s = .next (setResult (if isEthernetII s then .etherII else .etherI) s) :=
  Machine.exec_rxClassify h.ready h.etype

theorem Addressed.runInstrs_payload (h : Addressed f e s) (r : Result) :
    runInstrs [.rxPayload, .rxAdvance] (setResult r s) =
      .next (setResult r ((rxAdvanceOp s.cfg).exec ((rxPayloadOp s.cfg).exec s))) := by
  have hpayload : exec .rxPayload (setResult r s) = .next (setResult r ((rxPayloadOp s.cfg).exec s)) :=
    (exec_rxPayload (rxReady_setResult h.ready r) (by simp [State.isWritten, h.fr])).trans
      (congrArg _ ((stretch_rxPayload s.cfg).exec_setResult r s))
  obtain ⟨ws, last, b, -, -, -, hexec⟩ := exec_rxPayloadOp_ports (quiet_of_inIrq h.ready.1) h.fr h.eth
  rw [runInstrs_cons hpayload, hexec]
  exact runInstrs_rxAdvance (s := setFr none (appendQ _ { s with bus := b })) h.ready h.hdr r

theorem Addressed.runInstrs_drop (h : Addressed f e s) (r : Result) :
    runInstrs [.rxDrop, .rxAdvance] (setResult r s) =
      .next (setResult r ((rxAdvanceOp s.cfg).exec ((rxDropOp s.cfg).exec s))) := by
  have hdrop : exec .rxDrop (setResult r s) = .next (setResult r ((rxDropOp s.cfg).exec s)) :=
    (exec_rxDrop_some (rxReady_setResult h.ready r) h.fr h.etype).trans
      (congrArg _ (stretch_rxDrop.exec_setResult r s))
  have hexec := exec_rxDropOp_some h.fr
  have hready : RxReady ((rxDropOp s.cfg).exec s) := by simpa [hexec, RxReady] using h.ready
  have hhdr : ((rxDropOp s.cfg).exec s).wr.hdr = true := by simpa [hexec] using h.hdr
  have hcfg : ((rxDropOp s.cfg).exec s).cfg = s.cfg := by simp [hexec]
  rw [runInstrs_cons hdrop, runInstrs_rxAdvance hready hhdr, hcfg]

end

/-- With both buffers the addresses are read, and by the Ethertype the payload is or the buffers go back (44 R270). -/
theorem runInstrs_rxAddr {s : State} {f : FrameRec} (h : RxReady s) (hnext : s.wr.nextPkt = true)
    (hhdr : s.wr.hdr = true) (hlen : 64 ≤ s.rx.hdrTotal.toNat) (hfr : s.rx.fr = some f) :
    ∃ d r, runInstrs [.rxAddr, .rxClassify] s = .next (setResult r d) ∧
      ((r = .etherII ∧ runInstrs [.rxPayload, .rxAdvance] (setResult r d) =
          .next (setResult r ((rxAdvanceOp s.cfg).exec (frameRead s.cfg s)))) ∨
        (r = .etherI ∧ runInstrs [.rxDrop, .rxAdvance] (setResult r d) =
          .next (setResult r ((rxAdvanceOp s.cfg).exec (frameRead s.cfg s))))) := by
  obtain ⟨hexec, hcfg, e, haddressed⟩ := exec_rxAddr_addressed h hnext hhdr hlen hfr
  refine ⟨_, _, (runInstrs_cons hexec).trans (runInstrs_cons haddressed.exec_rxClassify), ?_⟩
  rw [frameRead]
  have hpayload := haddressed.runInstrs_payload .etherII
  have hdrop := haddressed.runInstrs_drop .etherI
  rw [hcfg] at hpayload hdrop
  cases isEthernetII ((rxAddrOp s.cfg).exec s) with
  | true => exact .inl ⟨rfl, hpayload⟩
  | false => exact .inr ⟨rfl, hdrop⟩

/-! ## What an iteration requests (44 R272) -/

theorem allocations_append (es fs : List Event) : allocations (es ++ fs) = allocations es ++ allocations fs :=
  List.filterMap_append

/-- Between two buses the traffic grew, with these requests to `allocate` in it. -/
def Requested (as : List (Nat × Option Nat)) (b b' : Bus) : Prop :=
  ∃ es, b'.trace = b.trace ++ es ∧ allocations es = as

theorem Requested.trans {as bs : List (Nat × Option Nat)} {b c d : Bus} (h : Requested as b c)
    (k : Requested bs c d) : Requested (as ++ bs) b d := by
  obtain ⟨es, htrace, rfl⟩ := h
  obtain ⟨fs, htrace', rfl⟩ := k
  exact ⟨es ++ fs, by rw [htrace', htrace, List.append_assoc], allocations_append es fs⟩

theorem requested_of_accesses {es : List Event} {b b' : Bus} (h : Accesses es b b') (hes : allocations es = []) :
    Requested [] b b' := ⟨es, congrArg Bus.trace h.1, hes⟩

theorem allocations_pageTrace (s : State) (p : RegPage) (v : Byte) : allocations (pageTrace s p v) = [] := by
  unfold pageTrace
  split <;> rfl

theorem allocations_fifoTrace (s : State) (ws : List Half) : allocations (fifoTrace s ws) = [] := by
  simp [allocations, fifoTrace]

theorem allocations_rdmaTrace (s : State) (a n : Half) : allocations (rdmaTrace s a n) = [] := rfl

section
variable {s : State}

theorem requested_rxHdrOp (h : Quiet s) :
    ∃ w₀ w₁ b, Requested [] s.bus b ∧ (rxHdrOp s.cfg).exec s = setHeader w₀ w₁ (onPage .p0 { s with bus := b }) := by
  obtain ⟨v, w₀, w₁, b, hb, hexec⟩ := exec_rxHdrOp h
  exact ⟨w₀, w₁, b, requested_of_accesses hb (by
    simp [allocations_append, allocations_pageTrace, allocations_rdmaTrace, allocations_fifoTrace]), hexec⟩

theorem requested_rxAddrOp (h : Quiet s) :
    ∃ e b, Requested [] s.bus b ∧ (rxAddrOp s.cfg).exec s = setAddresses e (onPage .p0 { s with bus := b }) := by
  obtain ⟨v, ws, b, -, hb, hexec⟩ := exec_rxAddrOp_ports h
  exact ⟨ethOfWords ws, b, requested_of_accesses hb (by
    simp [allocations_append, allocations_pageTrace, allocations_rdmaTrace, allocations_fifoTrace]), hexec⟩

theorem requested_rxPayloadOp (h : Quiet s) {f : FrameRec} {e : EthHeader} (hfr : s.rx.fr = some f)
    (he : f.eth = some e) :
    ∃ payload b, payload.length = f.length.toNat ∧ Requested [] s.bus b ∧
      (rxPayloadOp s.cfg).exec s =
        setFr none (appendQ [⟨f.record, f.buffer, e, f.length, payload⟩] { s with bus := b }) := by
  obtain ⟨ws, last, b, hws, hlast, hb, hexec⟩ := exec_rxPayloadOp_ports h hfr he
  refine ⟨wordsBytes ws ++ last, b, ?_, requested_of_accesses hb ?_, hexec⟩
  · rw [List.length_append, length_wordsBytes]
    omega
  · rw [allocations_append, allocations_fifoTrace]
    simp [allocations]

theorem requested_rxAdvanceOp (h : Quiet s) :
    ∃ b, Requested [] s.bus b ∧ (rxAdvanceOp s.cfg).exec s = onPage .p0 (advanceNext { s with bus := b }) := by
  obtain ⟨v, b, hb, hexec⟩ := exec_rxAdvanceOp h
  refine ⟨b, requested_of_accesses hb ?_, hexec⟩
  rw [allocations_append, allocations_append, allocations_pageTrace]
  rfl

end

/-! ## The law of one iteration (44 R272) -/

/-- From `u`, which has its two buffers in `FR = f`, to `x`, the frame was queued or the buffers went back (44 R267,
R268). -/
inductive ReadEnds (f : FrameRec) (u x : State) : Prop
  | queued (r : Frame) (hq : x.q = u.q ++ [r]) (hlog : x.log = u.log) (hlive : x.heap.live = u.heap.live)
    (htype : 0x0600 < x.rx.etype.toNat) (heth : r.eth.ethertype = x.rx.etype) (hrecord : r.record = f.record)
    (hbuffer : r.buffer = f.buffer) (hlength : r.length = f.length) (hpayload : r.payload.length = f.length.toNat)
  | dropped (hq : x.q = u.q) (hlog : x.log = u.log ++ [.ethernetI x.rx.etype])
    (hlive : x.heap.live = (u.heap.live.filter fun p => !decide (p.1 = f.buffer)).filter
      fun p => !decide (p.1 = f.record)) (htype : x.rx.etype.toNat ≤ 0x0600)

/-- The same with what the advance needs, and no request but the two that gave the buffers (44 R265 to R268). -/
structure FrameRead (f : FrameRec) (u x : State) : Prop where
  irq : x.ctl.inIrq = true
  cfg : x.cfg = u.cfg
  total : x.rx.hdrTotal = u.rx.hdrTotal
  fr : x.rx.fr = none
  requested : Requested [] u.bus x.bus
  ends : ReadEnds f u x

theorem requested_release (n : Nat) (s : State) : Requested [] s.bus (release n s).bus := ⟨[.release n], rfl, rfl⟩

/-- `RX.ADDR` fills the record and changes nothing else that the law speaks of (44 R265). -/
theorem rxAddrOp_fills {u : State} {f : FrameRec} (hirq : u.ctl.inIrq = true) (hfr : u.rx.fr = some f) :
    ∃ d e, (rxAddrOp u.cfg).exec u = d ∧ d.ctl.inIrq = true ∧ d.cfg = u.cfg ∧ d.rx.hdrTotal = u.rx.hdrTotal ∧
      d.q = u.q ∧ d.log = u.log ∧ d.heap = u.heap ∧ Requested [] u.bus d.bus ∧ d.rx.etype = e.ethertype ∧
      d.rx.fr = some { f with eth := some e } := by
  obtain ⟨e, b, hb, haddr⟩ := requested_rxAddrOp (quiet_of_inIrq hirq)
  exact ⟨_, e, haddr, hirq, rfl, rfl, rfl, rfl, rfl, hb, rfl, by simp [onPage, hfr]⟩

theorem frameRead_ends {u : State} {f : FrameRec} (hirq : u.ctl.inIrq = true) (hfr : u.rx.fr = some f) :
    FrameRead f u (frameRead u.cfg u) := by
  obtain ⟨d, e, haddr, hirq', hcfg, htotal, hq, hlog, hheap, hb, heth, hfr'⟩ := rxAddrOp_fills hirq hfr
  rw [frameRead, haddr, ← hcfg]
  split
  · next hII =>
    have htype : 0x0600 < d.rx.etype.toNat := (isEthernetII_iff d).1 hII
    obtain ⟨payload, b', hlen, hb', hexec⟩ := requested_rxPayloadOp (quiet_of_inIrq hirq') hfr' rfl
    rw [hexec]
    exact ⟨hirq', hcfg, htotal, rfl, hb.trans hb', .queued _ (congrArg (· ++ [_]) hq) hlog (congrArg Heap.live hheap)
      htype heth.symm rfl rfl rfl hlen⟩
  · next hI =>
    have htype : d.rx.etype.toNat ≤ 0x0600 := Nat.le_of_not_lt (mt (isEthernetII_iff d).2 hI)
    rw [exec_rxDropOp_some hfr']
    exact ⟨hirq', hcfg, htotal, rfl, hb.trans ((requested_release f.buffer d).trans (requested_release f.record _)),
      .dropped hq (by simp [hlog]) (by simp [hheap]) htype⟩

/-- The five ways of an iteration from `s` to `t`, each with its requests `as` and what it did of the queue, the log and
the heap (44 R272). -/
inductive FrameLaw (s t : State) (as : List (Nat × Option Nat)) : Prop
  | queued (f : Frame) (hq : t.q = s.q ++ [f]) (hlog : t.log = s.log) (hlen : 64 ≤ t.rx.hdrTotal.toNat)
    (htype : 0x0600 < t.rx.etype.toNat)
    (has : as = [(s.cfg.frameRecSize, some f.record), ((t.rx.hdrTotal - 18).toNat, some f.buffer)])
    (heth : f.eth.ethertype = t.rx.etype) (hlength : f.length = t.rx.hdrTotal - 18)
    (hpayload : f.payload.length = f.length.toNat) (hrecord : f.record = s.heap.next)
    (hbuffer : f.buffer = s.heap.next + 1)
    (hlive : t.heap.live = (f.buffer, f.length.toNat) :: (f.record, s.cfg.frameRecSize) :: s.heap.live)
  | runt (hq : t.q = s.q) (hlen : t.rx.hdrTotal.toNat < 64) (has : as = []) (hheap : t.heap = s.heap)
    (hlog : t.log = s.log ++ [.runt t.rx.hdrTotal])
  | noRecord (hq : t.q = s.q) (hlen : 64 ≤ t.rx.hdrTotal.toNat) (has : as = [(s.cfg.frameRecSize, none)])
    (hlive : t.heap.live = s.heap.live) (hlog : t.log = s.log ++ [.allocFrame])
  | noPayload (h : Nat) (hq : t.q = s.q) (hlen : 64 ≤ t.rx.hdrTotal.toNat)
    (has : as = [(s.cfg.frameRecSize, some h), ((t.rx.hdrTotal - 18).toNat, none)])
    (hlive : t.heap.live = s.heap.live) (hlog : t.log = s.log ++ [.allocPayload (t.rx.hdrTotal - 18)])
  | dropped (h b : Nat) (hq : t.q = s.q) (hlen : 64 ≤ t.rx.hdrTotal.toNat) (htype : t.rx.etype.toNat ≤ 0x0600)
    (has : as = [(s.cfg.frameRecSize, some h), ((t.rx.hdrTotal - 18).toNat, some b)])
    (hlive : t.heap.live = s.heap.live) (hlog : t.log = s.log ++ [.ethernetI t.rx.etype])

/-- What an iteration does between its header and the advance keeps the law; a frame that is no runt leaves
`FR = NONE` (44 R267, R268, R272). -/
theorem frameHandled_law {a : State} (hirq : a.ctl.inIrq = true) (hheap : HeapInv a) :
    ∃ x as, frameHandled a.cfg a = x ∧ x.ctl.inIrq = true ∧ x.cfg = a.cfg ∧
      x.rx.fr = (if x.rx.hdrTotal.toNat < 64 then a.rx.fr else none) ∧ Requested as a.bus x.bus ∧
      FrameLaw a x as := by
  by_cases hlt : a.rx.hdrTotal.toNat < 64
  · exact ⟨logRunt a, [], if_pos ((isRunt_iff a).2 hlt), hirq, rfl, (if_pos hlt).symm,
      ⟨[], (List.append_nil _).symm, rfl⟩, .runt rfl hlt rfl rfl rfl⟩
  · have hlen : 64 ≤ a.rx.hdrTotal.toNat := Nat.le_of_not_lt hlt
    rw [frameHandled, if_neg (mt (isRunt_iff a).1 hlt)]
    obtain ⟨a₁, a₂, b, -, -, -, hends⟩ := exec_rxAllocOp a
    generalize (rxAllocOp a.cfg).exec a = u at hends
    cases hends with
    | noRecord htrace =>
      rw [if_neg (by simp)]
      exact ⟨_, _, rfl, by simpa using hirq, rfl, (if_neg hlt).symm, ⟨_, htrace, rfl⟩,
        .noRecord rfl hlen rfl rfl rfl⟩
    | noPayload htrace =>
      rw [if_neg (by simp)]
      exact ⟨_, _, rfl, by simpa using hirq, rfl, (if_neg hlt).symm, ⟨_, htrace, rfl⟩,
        .noPayload _ rfl hlen rfl (filter_fresh hheap (Nat.le_refl _)) rfl⟩
    | granted htrace =>
      rw [if_pos (setResult_result _ _)]
      generalize hu : setResult .ok _ = u
      have hirq' : u.ctl.inIrq = true := by simpa [← hu] using hirq
      have hcfg : u.cfg = a.cfg := hu ▸ rfl
      have hfr : u.rx.fr = some ⟨a.heap.next, a.heap.next + 1, payloadSize a, none⟩ := hu ▸ rfl
      have hread := frameRead_ends hirq' hfr
      rw [hcfg] at hread
      generalize frameRead a.cfg u = x at hread
      subst hu
      obtain ⟨hirq'', hcfg', htotal, hnone, hrequested, hends⟩ := hread
      have hlen' : 64 ≤ x.rx.hdrTotal.toNat := htotal ▸ hlen
      have hsize : x.rx.hdrTotal - 18 = payloadSize a := congrArg (· - 18) htotal
      refine ⟨x, _, rfl, hirq'', hcfg', by rw [if_neg (Nat.not_lt.2 hlen'), hnone],
        (show Requested _ a.bus b from ⟨_, htrace, rfl⟩).trans hrequested, ?_⟩
      cases hends with
      | queued r hq hlog hlive htype heth hrecord hbuffer hlength hpayload =>
        refine .queued r hq hlog hlen' htype ?_ heth (hlength.trans hsize.symm) (hlength ▸ hpayload) hrecord hbuffer ?_
        · rw [hsize, hrecord, hbuffer]
          rfl
        · rw [hlive, hrecord, hbuffer, hlength]
          rfl
      | dropped hq hlog hlive htype =>
        refine .dropped a.heap.next (a.heap.next + 1) hq hlen' htype ?_ ?_ hlog
        · rw [hsize]
          rfl
        · have hfresh := filter_fresh hheap (Nat.le_refl a.heap.next)
          have hfresh' := filter_fresh hheap (Nat.le_succ a.heap.next)
          rw [hlive]
          simp [hfresh, hfresh']

end Sys2Proof.Machine

/-! What the statements say of the receive pipeline, each from the lemmas above. -/

namespace Sys2Proof.Receive

open Machine

/-- Settles O40: one read decides whether the loop turns with `RX.FRAME` or ends with `RX.ACK`. -/
theorem rxLoop : Obligations.RxLoop := by
  refine fun s h => ⟨fun hnext => ⟨exec_rxIrq h hnext, ?_⟩, fun hseen => ?_⟩
  · obtain ⟨v, c, t, hports, hpending⟩ := exec_rxPending_chain s
    have hrun : exec .rxPending s = .next ((rxPendingOp s.cfg).exec s) :=
      operate_rx_written (r := .nextPkt) h hnext (steady_rxPendingOp s.cfg)
    have hready : RxReady (onPage .p1 t) := rxReady_onPage h hports .p1
    have hcfg : (onPage .p1 t).cfg = s.cfg := (portsOnly_cfg hports :)
    have hwr : (onPage .p1 t).wr = s.wr := (portsOnly_wr hports :)
    refine ⟨v, c, t, hports, hrun.trans (congrArg _ (hpending _)), fun hseen => ⟨fun hne => ?_, fun heq => ?_⟩⟩
    · refine ⟨_, exec_rxFrame hready (hwr ▸ hnext), ?_⟩
      rw [runTask_irqLoop h hnext hseen, irqLoop, hpending, if_pos (decide_eq_true hne), exec_rxFrame_chain, hcfg,
        exec_last]
    · rw [runTask_irqLoop h hnext hseen, irqLoop, hpending, if_neg (by simpa using heq),
        exec_rxAck hready (hwr ▸ hseen), hcfg]
  · obtain ⟨v, t, hports, hexec⟩ := exec_rxAck_ports (quiet_of_inIrq h.1)
    exact ⟨v, t, hports, (exec_rxAck h hseen).trans (congrArg _ hexec)⟩

/-- Settles O42: by the answers to the two requests. -/
theorem rxAlloc : Obligations.RxAlloc := by
  intro s h hhdr hheap size handle
  obtain ⟨a₁, a₂, b, hagents, hanswers, hdictated, hends⟩ := exec_rxAllocOp s
  refine ⟨a₁, a₂, b, hagents, hanswers, hdictated, ?_⟩
  rw [exec_rxAlloc h hhdr]
  generalize (rxAllocOp s.cfg).exec s = t at hends
  cases hends with
  | noRecord htrace => exact ⟨fun _ => ⟨htrace, rfl⟩, nofun, nofun⟩
  | noPayload htrace =>
    rw [filter_fresh hheap (Nat.le_refl _)]
    exact ⟨nofun, fun _ _ => ⟨htrace, rfl⟩, nofun⟩
  | granted htrace => exact ⟨nofun, nofun, fun _ _ => ⟨htrace, rfl⟩⟩

/-- Settles O43: each step by its accesses and the state it leaves, the tests by their bounds. -/
theorem rxSteps : Obligations.RxSteps := by
  intro s h page m
  have hquiet : Quiet s := quiet_of_inIrq h.1
  refine ⟨fun hnext => ?_, fun f hnext hhdr hfr => ?_, fun f e hfr he => ?_, fun f hfr hetype => ?_, fun hhdr => ?_,
    fun _ => ⟨fun hhdr => ?_, fun hetype => ?_⟩⟩
  · obtain ⟨v, w₀, w₁, b, hb, hexec⟩ := exec_rxHdrOp hquiet
    refine ⟨v, w₀, w₁, _, portsOnly_of_accesses hb, ?_⟩
    rw [exec_rxHdr h hnext, hexec, setHeader, lo_eq_extractLsb', hi_eq_extractLsb']
    rfl
  · have hcount : bodyCount s = BitVec.ofNat 16 (((s.rx.hdrTotal - 4).toNat + 1) / 2 * 2) := roundup2_eq _
    rw [← hcount]
    refine ⟨fun hne => ?_, exec_rxAddr_zero h hnext hhdr⟩
    obtain ⟨v, ws, b, hlen, hb, hexec⟩ := exec_rxAddrOp_ports hquiet
    match ws, hlen with
    | [w₀, w₁, w₂, w₃, w₄, w₅, w₆], _ =>
      refine ⟨v, w₀, w₁, w₂, w₃, w₄, w₅, w₆, _, portsOnly_of_accesses hb, ?_⟩
      rw [exec_rxAddr h hnext hhdr hne, hexec]
      simp only [← lo_eq_extractLsb', ← hi_eq_extractLsb', setAddresses, onPage, hfr]
      rfl
  · obtain ⟨ws, last, b, hws, hlast, hb, hexec⟩ := exec_rxPayloadOp_ports hquiet hfr he
    have hwritten : s.isWritten .fr = true := by simp [State.isWritten, hfr]
    refine ⟨ws, last, _, hws, hlast, portsOnly_of_accesses hb, ?_⟩
    rw [exec_rxPayload h hwritten, hexec]
    simp only [← lo_eq_extractLsb', ← hi_eq_extractLsb']
    rfl
  · refine ⟨_, rfl, ?_⟩
    rw [exec_rxDrop_some h hfr hetype, exec_rxDropOp_some hfr]
    simp [logFailure, setFr, release, Bus.emit, List.filter_filter, Bool.and_comm]
  · obtain ⟨v, b, hb, hexec⟩ := exec_rxAdvanceOp hquiet
    refine ⟨v, _, portsOnly_of_accesses hb, ?_⟩
    rw [exec_rxAdvance h hhdr, hexec]
    rfl
  · rw [exec_rxRunt h hhdr]
    simp only [isRunt_iff]
    rfl
  · rw [exec_rxClassify h hetype]
    simp only [isEthernetII_iff]

/-- Settles O44: the parts after the header by the runt test, the allocation and the Ethertype. -/
theorem rxFrameSequence : Obligations.RxFrameSequence := by
  intro s h hnext
  obtain ⟨v, w₀, w₁, b, -, hheader⟩ := exec_rxHdrOp (quiet_of_inIrq h.1)
  have hframe := exec_rxFrame h hnext
  have hhdr := exec_rxHdr h hnext
  rw [hheader] at hframe hhdr
  generalize ha : setHeader w₀ w₁ (onPage .p0 { s with bus := b }) = a at hframe hhdr
  have hready : RxReady a := ha ▸ h
  have hwritten : a.wr.hdr = true := ha ▸ rfl
  have hnext' : a.wr.nextPkt = true := ha ▸ hnext
  have hcfg : a.cfg = s.cfg := ha ▸ rfl
  have hresult (r : Result) (u : State) : setResult .unit u = setResult .unit (setResult r u) :=
    (setResult_setResult _ _ u).symm
  have hrunt := exec_rxRunt hready hwritten
  rw [← hcfg, frameHandled] at hframe
  by_cases hlt : a.rx.hdrTotal.toNat < 64
  · rw [if_pos ((isRunt_iff a).2 hlt)] at hframe hrunt
    have hadvance := runInstrs_rxAdvance (s := logRunt a) hready hwritten (.bool true)
    exact ⟨_, _, a, hframe, hhdr, hresult _ _, .inl ⟨hlt, (runInstrs_cons hhdr).trans
      ((runInstrs_cons hrunt).trans hadvance)⟩⟩
  · have hlen : 64 ≤ a.rx.hdrTotal.toNat := Nat.le_of_not_lt hlt
    rw [if_neg (mt (isRunt_iff a).1 hlt)] at hframe hrunt
    have halloc : exec .rxAlloc (setResult (.bool false) a) = .next ((rxAllocOp a.cfg).exec a) :=
      (exec_rxAlloc (rxReady_setResult hready _) hwritten).trans (congrArg _ (exec_rxAllocOp_setResult _ _ _))
    have hrun : runInstrs [.rxHdr, .rxRunt, .rxAlloc] s = .next ((rxAllocOp a.cfg).exec a) :=
      (runInstrs_cons hhdr).trans ((runInstrs_cons hrunt).trans (runInstrs_cons halloc))
    obtain ⟨a₁, a₂, b, -, -, -, hends⟩ := exec_rxAllocOp a
    generalize (rxAllocOp a.cfg).exec a = u at hframe hrun hends
    obtain ⟨hready', hcfg', hhdr', hnext'', htotal, hrecord⟩ := hends.leaves hready
    rw [← hcfg'] at hframe
    have hwritten' : u.wr.hdr = true := hhdr'.trans hwritten
    by_cases hok : u.result = .ok
    · rw [if_pos hok] at hframe
      obtain ⟨f, hfr⟩ := hrecord hok
      obtain ⟨d, r, haddr, hend⟩ :=
        runInstrs_rxAddr hready' (hnext''.trans hnext') hwritten' (htotal ▸ hlen) hfr
      have hrun' := (runInstrs_append hrun).trans haddr
      refine ⟨_, _, a, hframe, hhdr, hresult r _, .inr ⟨hlen, u, hrun, .inr ⟨hok, _, hrun', ?_⟩⟩⟩
      rw [setResult_result]
      exact hend.imp (fun ⟨hr, hlast⟩ => ⟨hr, (runInstrs_append hrun').trans hlast⟩)
        fun ⟨hr, hlast⟩ => ⟨hr, (runInstrs_append hrun').trans hlast⟩
    · rw [if_neg hok] at hframe
      exact ⟨_, _, a, hframe, hhdr, rfl, .inr ⟨hlen, u, hrun, .inl ⟨hok, (runInstrs_append hrun).trans
        (runInstrs_cons (exec_rxAdvance hready' hwritten'))⟩⟩⟩

/-- Settles O45: the header makes no request, the advance none either, and between them is the law. -/
theorem rxFrameLaw : Obligations.RxFrameLaw := by
  intro s t hexec hheap
  obtain ⟨hreqs, -⟩ := guarded_next.1 hexec
  obtain ⟨⟨hirq, hbound, hlive⟩, hnext⟩ : RxReady s ∧ s.wr.nextPkt = true := by
    simpa [rxReqs, Req.holds, State.isWritten, RxReady, and_assoc] using hreqs
  obtain ⟨w₀, w₁, b₀, hb₀, hheader⟩ := requested_rxHdrOp (quiet_of_inIrq hirq)
  have hrun := exec_rxFrame ⟨hirq, hbound, hlive⟩ hnext
  rw [hheader] at hrun
  obtain ⟨x, as, hx, hirq', hcfg, hfr, has, hlaw⟩ :=
    frameHandled_law (a := setHeader w₀ w₁ (onPage .p0 { s with bus := b₀ })) hirq hheap
  obtain ⟨b, hb, hadvance⟩ := requested_rxAdvanceOp (quiet_of_inIrq hirq')
  change frameHandled s.cfg _ = x at hx
  change x.cfg = s.cfg at hcfg
  rw [hx, ← hcfg, hadvance, hexec] at hrun
  obtain rfl := Host.Outcome.next.inj hrun
  obtain ⟨es, htrace, hes⟩ := hb₀.trans (has.trans hb)
  rw [List.nil_append, List.append_nil] at hes
  subst hes
  refine ⟨rfl, hfr, es, htrace, ?_⟩
  cases hlaw with
  | queued f hq hlog hlen htype has heth hlength hpayload hrecord hbuffer hlive =>
    exact .inl ⟨f, hq, hlog, hlen, htype, has, heth, hlength, hpayload, hrecord, hbuffer, hlive⟩
  | runt hq hlen has hheap hlog =>
    exact .inr ⟨hq, congrArg Heap.live hheap, .inl ⟨hlen, has, hheap, hlog⟩⟩
  | noRecord hq hlen has hlive hlog => exact .inr ⟨hq, hlive, .inr (.inl ⟨hlen, has, hlog⟩)⟩
  | noPayload h hq hlen has hlive hlog => exact .inr ⟨hq, hlive, .inr (.inr (.inl ⟨hlen, ⟨h, has⟩, hlog⟩))⟩
  | dropped h b hq hlen htype has hlive hlog =>
    exact .inr ⟨hq, hlive, .inr (.inr (.inr ⟨hlen, ⟨h, b, has⟩, htype, hlog⟩))⟩

end Sys2Proof.Receive

/-! PROOFS. The frame queue: its three operations (O46), the wait and the guard (O47), and the law of queue programs
(O48). First what a guarded update leaves, then each operation as its effect on the state, then the wait: a guarded
dequeue, and a retry that looks at the answer. -/

namespace Sys2Proof.Machine

/-! ## Updates under a guard (45 R280) -/

/-- An update that neither looks at `IF` nor changes it. -/
def IfBlind (f : State → State) : Prop := ∀ b s, f (setIf b s) = setIf b (f s)

theorem setIf_restored {f : State → State} (hf : IfBlind f) (s : State) :
    setIf s.fl.ifl (f (setIf false s)) = f s := (hf s.fl.ifl (setIf false s)).symm

/-- Up to the moment `IF` gets its old value back no handler run can start. -/
theorem passes_guardIf {f : State → State} (hf : IfBlind f) (k : Params → Prog) (s : State) :
    Passes (fun c => .guardIf (.upd f) (k c)) s [.unit, .bool s.fl.ifl] (fun c => .upd (setIf s.fl.ifl) (k c))
      (f (setIf false s)) := by
  have hquiet : Quiet (f (setIf false s)) := by rw [hf]; exact quiet_of_if rfl
  exact (Passes.start.part (quiet_of_if rfl)).upd (g := fun _ => f) hquiet

/-- An operation that is one guarded update is never split. -/
theorem operate_guardIf {f : State → State} (hf : IfBlind f) (t : Task) (s : State) :
    operate t [] (fun _ => .guardIf (.upd f) .done) s = .next (f s) := by
  have hrun : (Prog.guardIf (.upd f) .done).run t [] s = f s :=
    ((passes_guardIf hf (fun _ => .done) s).run t).trans (setIf_restored hf s)
  exact congrArg Host.Outcome.next hrun

/-! ## The operations (45 R281 to R283) -/

theorem dequeueBody_nil {s : State} (h : s.q = []) : dequeueBody s = setResult .noFrame s := by
  simp only [dequeueBody, h]

theorem dequeueBody_cons {s : State} {f : Frame} {rest : List Frame} (h : s.q = f :: rest) :
    dequeueBody s = setResult (.frame f) { s with q := rest, taken := s.taken ++ [f] } := by
  simp only [dequeueBody, h]

@[simp] theorem dequeueBody_inIrq (s : State) : (dequeueBody s).ctl.inIrq = s.ctl.inIrq := by
  cases h : s.q with
  | nil => rw [dequeueBody_nil h, setResult_inIrq]
  | cons f rest => rw [dequeueBody_cons h, setResult_inIrq]

theorem dequeueBody_ifBlind : IfBlind dequeueBody := by
  intro b s
  cases h : s.q with
  | nil => rw [dequeueBody_nil h, dequeueBody_nil (s := setIf b s) h]; rfl
  | cons f rest => rw [dequeueBody_cons h, dequeueBody_cons (s := setIf b s) h]; rfl

/-- What a queue operation does to the state. -/
def queueEffect : QueueOp → State → State
  | .enq f => appendQ [f]
  | .deq => dequeueBody
  | .size => fun s => setResult (.count s.q.length) s

theorem queueEffect_ifBlind (op : QueueOp) : IfBlind (queueEffect op) := by
  cases op with
  | enq f => exact fun _ _ => rfl
  | deq => exact dequeueBody_ifBlind
  | size => exact fun _ _ => rfl

theorem exec_queueOp (op : QueueOp) (s : State) : exec op.instr s = .next (queueEffect op s) := by
  cases op with
  | enq f => exact operate_guardIf (queueEffect_ifBlind (.enq f)) _ s
  | deq => exact operate_guardIf (queueEffect_ifBlind .deq) _ s
  | size => exact operate_guardIf (queueEffect_ifBlind .size) _ s

/-! ## The law of a queue program (45 R286) -/

/-- From `s` to `t` the frames `fs` were enqueued and none was lost, doubled or reordered; of the rest of the state only
what the contexts have answered changed. -/
structure Conserves (fs : List Frame) (s t : State) : Prop where
  frames : t.taken ++ t.q = s.taken ++ s.q ++ fs
  taken : s.taken <+: t.taken
  rest : t = { s with q := t.q, taken := t.taken, ctl := t.ctl }

theorem conserves_refl (s : State) : Conserves [] s s := ⟨(List.append_nil _).symm, List.prefix_rfl, rfl⟩

theorem Conserves.trans {fs gs : List Frame} {s t u : State} (h : Conserves fs s t) (k : Conserves gs t u) :
    Conserves (fs ++ gs) s u where
  frames := by rw [k.frames, h.frames, List.append_assoc]
  taken := h.taken.trans k.taken
  rest := k.rest.trans (by rw [h.rest])

theorem conserves_dequeueBody (s : State) : Conserves [] s (dequeueBody s) := by
  cases h : s.q with
  | nil =>
    rw [dequeueBody_nil h]
    exact ⟨(List.append_nil _).symm, List.prefix_rfl, rfl⟩
  | cons f rest =>
    rw [dequeueBody_cons h]
    exact ⟨by simp [h], List.prefix_append _ _, rfl⟩

theorem conserves_queueEffect (op : QueueOp) (s : State) : Conserves (enqueued [op]) s (queueEffect op s) := by
  cases op with
  | enq f => exact ⟨(List.append_assoc _ _ _).symm, List.prefix_rfl, rfl⟩
  | deq => exact conserves_dequeueBody s
  | size => exact ⟨(List.append_nil _).symm, List.prefix_rfl, rfl⟩

theorem enqueued_cons (op : QueueOp) (ops : List QueueOp) :
    enqueued (op :: ops) = enqueued [op] ++ enqueued ops := by cases op <;> rfl

theorem runInstrs_queueOps (ops : List QueueOp) (s : State) :
    ∃ t, runInstrs (ops.map QueueOp.instr) s = .next t ∧ Conserves (enqueued ops) s t := by
  induction ops generalizing s with
  | nil => exact ⟨s, rfl, conserves_refl s⟩
  | cons op ops ih =>
    obtain ⟨t, hrun, hops⟩ := ih (queueEffect op s)
    refine ⟨t, (runInstrs_cons (exec_queueOp op s)).trans hrun, ?_⟩
    rw [enqueued_cons]
    exact (conserves_queueEffect op s).trans hops

/-! ## The wait (45 R284) -/

/-- Where a boundary starts no handler run, the answer stands. -/
theorem deliver_result {s : State} (h : (deliver s).ctl.inIrq = false) : (deliver s).result = s.result := by
  rcases deliver_cases s with ⟨-, b, hb, -⟩ | ⟨b, hb, -⟩
  · rw [hb] at h
    exact Bool.noConfusion h
  · rw [hb]
    rfl

/-- What `Q.WAIT` does after its dequeue: with no frame, halt until an interrupt and try again. -/
def retry : Prog :=
  .test (fun s => decide (s.result = .noFrame)) (.last (push [.waitHalt, .op .qWait])) .done

/-- An update with more parts after it: a handler run may start in between, and then they wait for it (60 R302). -/
theorem run_upd_more {f : State → State} {k : Prog} {s : State} (hk : k.isDone = false)
    (hmain : (f s).ctl.inIrq = false) (t : Task) (got : List Val) :
    (Prog.upd f k).run t got s =
      if (deliver (f s)).ctl.inIrq then suspendAs (.resume t (.unit :: got)) (deliver (f s))
      else k.run t (.unit :: got) (deliver (f s)) := by
  rw [Prog.upd, run_act, hk, if_neg Bool.false_ne_true, hmain, Bool.not_false, Bool.and_true]

/-- The parts of `Q.WAIT` up to the boundary after its dequeue. -/
theorem run_qWait {s : State} (hmain : s.ctl.inIrq = false) (t : Task) :
    (qWait s.cfg).run t [] s =
      if (deliver (dequeueBody s)).ctl.inIrq then
        suspendAs (.resume t [.unit, .unit, .bool s.fl.ifl]) (deliver (dequeueBody s))
      else retry.run t [.unit, .unit, .bool s.fl.ifl] (deliver (dequeueBody s)) := by
  have hdequeued : (qWait s.cfg).run t [] s = (Prog.upd (setIf s.fl.ifl) retry).run t [.unit, .bool s.fl.ifl]
      (dequeueBody (setIf false s)) := (passes_guardIf dequeueBody_ifBlind (fun _ => retry) s).run t
  have hmain' : (setIf s.fl.ifl (dequeueBody (setIf false s))).ctl.inIrq = false := by
    rw [setIf_restored dequeueBody_ifBlind, dequeueBody_inIrq, hmain]
  rw [hdequeued, run_upd_more rfl hmain', setIf_restored dequeueBody_ifBlind]

/-- A frame ends the wait. -/
theorem run_retry_frame {s : State} {f : Frame} (h : s.result = .frame f) (t : Task) (got : List Val) :
    retry.run t got s = s := by
  have hno : decide (s.result = .noFrame) = false := by rw [h]; rfl
  rw [retry, Prog.test, run_act, hno]
  rfl

/-- With none, a handler run may start once more before the halt is placed (70 R335). -/
theorem run_retry_noFrame {s : State} (hmain : s.ctl.inIrq = false) (h : s.result = .noFrame) (t : Task)
    (got : List Val) :
    retry.run t got s =
      if (deliver s).ctl.inIrq then suspendAs (.resume t (.bool true :: got)) (deliver s)
      else push [.waitHalt, .op .qWait] (deliver s) := by
  have hyes : decide (s.result = .noFrame) = true := decide_eq_true h
  rw [retry, Prog.test, run_act, hyes, if_neg (by exact Bool.false_ne_true), hmain, Bool.not_false, Bool.and_true]
  rfl

section
variable {s : State} (hmain : s.ctl.inIrq = false)
include hmain

theorem exec_qWait (hif : s.fl.ifl = true) :
    exec .qWait s = .next
      (if (deliver (dequeueBody s)).ctl.inIrq then
        suspendAs (.resume (.op .qWait) [.unit, .unit, .bool true]) (deliver (dequeueBody s))
      else retry.run (.op .qWait) [.unit, .unit, .bool true] (deliver (dequeueBody s))) := by
  have hreqs : ∀ r ∈ [Req.mainContext, .ifOn], r.holds s = true := by simp [Req.holds, hmain, hif]
  have hrun : exec .qWait s = .next ((qWait s.cfg).run (.op .qWait) [] s) := guarded_run hreqs
  rw [hrun, run_qWait hmain, hif]

theorem exec_qWait_frame (hif : s.fl.ifl = true) {f : Frame} (h : (dequeueBody s).result = .frame f) :
    exec .qWait s = .next
      (if (deliver (dequeueBody s)).ctl.inIrq then
        suspendAs (.resume (.op .qWait) [.unit, .unit, .bool true]) (deliver (dequeueBody s))
      else deliver (dequeueBody s)) := by
  rw [exec_qWait hmain hif]
  congr 1
  refine if_ctx_congr Iff.rfl (fun _ => rfl) fun hirq => ?_
  exact run_retry_frame ((deliver_result (Bool.eq_false_of_not_eq_true hirq)).trans h) _ _

theorem exec_qWait_noFrame (hif : s.fl.ifl = true) (h : (dequeueBody s).result = .noFrame) :
    exec .qWait s = .next
      (if (deliver (dequeueBody s)).ctl.inIrq then
        suspendAs (.resume (.op .qWait) [.unit, .unit, .bool true]) (deliver (dequeueBody s))
      else if (deliver (deliver (dequeueBody s))).ctl.inIrq then
        suspendAs (.resume (.op .qWait) [.bool true, .unit, .unit, .bool true]) (deliver (deliver (dequeueBody s)))
      else push [.waitHalt, .op .qWait] (deliver (deliver (dequeueBody s)))) := by
  rw [exec_qWait hmain hif]
  congr 1
  refine if_ctx_congr Iff.rfl (fun _ => rfl) fun hirq => ?_
  have hirq' := Bool.eq_false_of_not_eq_true hirq
  exact run_retry_noFrame hirq' ((deliver_result hirq').trans h) _ _

theorem exec_qWait_refused (hif : s.fl.ifl = false) : exec .qWait s = .refused .interruptsOff :=
  operate_refused (pre := [.mainContext]) (q := .ifOn) (List.forall_mem_singleton.2 (by simp [Req.holds, hmain]))
    hif rfl

/-! ### The rest of a wait that a handler run has split (60 R303) -/

theorem runTask_resume (t : Task) (got : List Val) : runTask (.resume t got) s = .next (resumeTask t got s) :=
  guarded_run (List.forall_mem_singleton.2 (by simp [Req.holds, hmain]))

/-- Split after the dequeue, the retry is left. -/
theorem runTask_qWait_dequeued :
    runTask (.resume (.op .qWait) [.unit, .unit, .bool true]) s =
      .next (retry.run (.op .qWait) [.unit, .unit, .bool true] s) :=
  runTask_resume hmain _ _

/-- Split before the halt, the halt is left. -/
theorem runTask_qWait_halting :
    runTask (.resume (.op .qWait) [.bool true, .unit, .unit, .bool true]) s = .next (push [.waitHalt, .op .qWait] s) :=
  runTask_resume hmain _ _

theorem runTask_qWait_noFrame (hquiet : Quiet s) (h : s.result = .noFrame) :
    runTask (.resume (.op .qWait) [.unit, .unit, .bool true]) s = .next (push [.waitHalt, .op .qWait] s) := by
  rw [runTask_qWait_dequeued hmain, run_retry_noFrame hmain h, deliver_of_quiet hquiet, hmain,
    if_neg Bool.false_ne_true]

theorem runTask_waitHalt (hif : s.fl.ifl = true) : runTask .waitHalt s = .next (setHalted true s) :=
  guarded_run (by simp [Req.holds, hmain, hif])

end

/-! ## The guard (45 R280) -/

theorem exec_qGuard (body : List Line) (s : State) : exec (.qGuard body) s = .next (qGuard body s) :=
  operate_last _ _ s

end Sys2Proof.Machine

/-! What the statements say of the frame queue, each from the lemmas above. -/

namespace Sys2Proof.FrameQueue

open Machine

/-- Settles O46: each operation is its effect on the state. -/
theorem queueOps : Obligations.QueueOps := fun s =>
  ⟨fun f => exec_queueOp (.enq f) s,
    fun h => (exec_queueOp .deq s).trans (congrArg _ (dequeueBody_nil h)),
    fun _ _ h => (exec_queueOp .deq s).trans (congrArg _ (dequeueBody_cons h)),
    exec_queueOp .size s⟩

/-- Settles O48, by induction on the program: each operation conserves the frames. -/
theorem queueLaw : Obligations.QueueLaw := by
  intro ops s
  obtain ⟨t, hrun, hframes, htaken, hrest⟩ := runInstrs_queueOps ops s
  exact ⟨t, hrun, hframes, htaken, hrest⟩

/-- Settles O47: a wait is a guarded dequeue and a retry, and each of the two boundaries may split it. -/
theorem queueControl : Obligations.QueueControl := by
  refine ⟨fun s hmain hif => ⟨fun f rest h => ?_, fun h => ?_, fun f h => ?_, fun h hquiet => ?_, ?_, ?_⟩,
    fun s hmain hif => exec_qWait_refused hmain hif, fun s => ⟨fun body => exec_qGuard body s, fun b => rfl⟩⟩
  · have hexec := exec_qWait_frame hmain hif (f := f) (by rw [dequeueBody_cons h, setResult_result])
    rwa [dequeueBody_cons h] at hexec
  · have hexec := exec_qWait_noFrame hmain hif (by rw [dequeueBody_nil h, setResult_result])
    rwa [dequeueBody_nil h] at hexec
  · rw [runTask_qWait_dequeued hmain, run_retry_frame h]
  · exact runTask_qWait_noFrame hmain hquiet h
  · exact runTask_qWait_halting hmain
  · exact runTask_waitHalt hmain hif

end Sys2Proof.FrameQueue

/-! PROOFS. What every operation may write: the fields of the state that the statements tell apart, what each update,
part and program may change of them, and the table of what each instruction does. A run is within what its parts write,
or a handler run has split it. What an instruction may change (O54) and what the handler leaves alone (O51) are read off
that table. -/

namespace Sys2Proof.Machine

/-! ## What a part may write -/

/-- What the statements tell apart in the state: registers, tables and flags, whether the NIC's window and the heap are
all that was accessed (`ports`), and the steps the main context still has to make (`todo`). -/
inductive Field where
  | lfsr
  | ident
  | rdp
  | key
  | decoder
  | table
  | count
  | fresh
  | driver
  | prom
  | nextPkt
  | phase
  | handler
  | mask
  | ifl
  | q
  | taken
  | heap
  | ports
  | todo

/-- The traffic grew by events with `P`. -/
def GrowsBy (P : Event → Prop) (es es' : List Event) : Prop := ∃ fs, es' = es ++ fs ∧ ∀ e ∈ fs, P e

/-- From `s` to `t` the base of the NIC's window stayed, and every access was one of the receive pipeline's. -/
def NicOnly (s t : State) : Prop :=
  t.nic.iobase = s.nic.iobase ∧ GrowsBy (nicEvent s.cfg.num s.nic.iobase) s.bus.trace t.bus.trace

/-- `t` has the field as `s` has it. -/
def Field.same : Field → State → State → Prop
  | .lfsr, s, t => t.iso.lfsr = s.iso.lfsr
  | .ident, s, t => t.iso.id = s.iso.id ∧ t.iso.bitcnt = s.iso.bitcnt
  | .rdp, s, t => t.iso.rdp = s.iso.rdp ∧ t.wr.rdp = s.wr.rdp
  | .key, s, t => t.iso.keySent = s.iso.keySent
  | .decoder, s, t => t.dec = s.dec
  | .table, s, t => t.dev = s.dev
  | .count, s, t => t.dev.length = s.dev.length
  | .fresh, s, t => t.fresh = s.fresh
  | .driver, s, t => t.nic.bound = s.nic.bound ∧ t.nic.qh = s.nic.qh
  | .prom, s, t => t.nic.prom = s.nic.prom
  | .nextPkt, s, t => t.nic.nextPkt = s.nic.nextPkt
  | .phase, s, t => t.phase = s.phase
  | .handler, s, t => t.fl.handlerSet = s.fl.handlerSet
  | .mask, s, t => t.fl.lineMasked = s.fl.lineMasked
  | .ifl, s, t => t.fl.ifl = s.fl.ifl
  | .q, s, t => t.q = s.q
  | .taken, s, t => t.taken = s.taken
  | .heap, s, t => t.heap = s.heap
  | .ports, s, t => NicOnly s t
  | .todo, s, t => t.ctl.main.todo = s.ctl.main.todo

/-- What every part of every operation and every boundary keeps: the parameters and the ranges of `BITCNT` and `PROM`
(10 R22, R28); the log and the traffic only grow, and what was registered stays so. -/
structure Grows (s t : State) : Prop where
  cfg : t.cfg = s.cfg
  log : s.log <+: t.log
  trace : s.bus.trace <+: t.bus.trace
  handlerSet : s.fl.handlerSet = true → t.fl.handlerSet = true
  qh : s.nic.qh = .queueQ → t.nic.qh = .queueQ
  prom : t.nic.prom.length = s.nic.prom.length
  bitcnt : s.iso.bitcnt.toNat ≤ 72 → t.iso.bitcnt.toNat ≤ 72

/-- From `s` to `t` no field but those of `ws` changed. No handler run was started or ended, a context that does not run
was left alone, and no rest of a split step was added. -/
structure Within (ws : List Field) (s t : State) : Prop extends Grows s t where
  same : ∀ x, x ∉ ws → x.same s t
  inIrq : t.ctl.inIrq = s.ctl.inIrq
  halted : t.fl.halted = s.fl.halted
  main : s.ctl.inIrq = true → t.ctl.main = s.ctl.main
  resumes : ∀ task got, Task.resume task got ∈ t.ctl.main.todo → Task.resume task got ∈ s.ctl.main.todo

theorem field_forall {P : Field → Prop} :
    (∀ x, P x) ↔ P .lfsr ∧ P .ident ∧ P .rdp ∧ P .key ∧ P .decoder ∧ P .table ∧ P .count ∧ P .fresh ∧ P .driver ∧
      P .prom ∧ P .nextPkt ∧ P .phase ∧ P .handler ∧ P .mask ∧ P .ifl ∧ P .q ∧ P .taken ∧ P .heap ∧ P .ports ∧
      P .todo := by
  refine ⟨fun h => by simp [h], fun h x => ?_⟩
  obtain ⟨_, _, _, _, _, _, _, _, _, _, _, _, _, _, _, _, _, _, _, _⟩ := h
  cases x <;> assumption

@[simp] theorem growsBy_refl (P : Event → Prop) (es : List Event) : GrowsBy P es es :=
  ⟨[], (List.append_nil es).symm, nofun⟩

theorem GrowsBy.trans {P : Event → Prop} {es fs gs : List Event} (h : GrowsBy P es fs) (k : GrowsBy P fs gs) :
    GrowsBy P es gs := by
  obtain ⟨xs, rfl, hxs⟩ := h
  obtain ⟨ys, rfl, hys⟩ := k
  exact ⟨xs ++ ys, List.append_assoc _ _ _, fun e he => (List.mem_append.1 he).elim (hxs e) (hys e)⟩

theorem NicOnly.trans {s t u : State} (hcfg : t.cfg = s.cfg) (h : NicOnly s t) (k : NicOnly t u) : NicOnly s u := by
  obtain ⟨hbase, hes⟩ := h
  obtain ⟨hbase', hfs⟩ := k
  rw [hcfg, hbase] at hfs
  exact ⟨hbase'.trans hbase, hes.trans hfs⟩

theorem Field.same_trans (x : Field) {s t u : State} (hcfg : t.cfg = s.cfg) (h : x.same s t) (k : x.same t u) :
    x.same s u := by
  cases x
  case ident | rdp | driver => exact ⟨k.1.trans h.1, k.2.trans h.2⟩
  case ports => exact h.trans hcfg k
  all_goals exact Eq.trans k h

theorem Grows.trans {s t u : State} (h : Grows s t) (k : Grows t u) : Grows s u where
  cfg := k.cfg.trans h.cfg
  log := h.log.trans k.log
  trace := h.trace.trans k.trace
  handlerSet hs := k.handlerSet (h.handlerSet hs)
  qh hs := k.qh (h.qh hs)
  prom := k.prom.trans h.prom
  bitcnt hs := k.bitcnt (h.bitcnt hs)

section
variable {ws vs : List Field} {s t u : State}

theorem Within.mono (h : Within vs s t) (hsub : vs ⊆ ws) : Within ws s t :=
  { h with same := fun x hx => h.same x fun hmem => hx (hsub hmem) }

theorem Within.of_cons {x : Field} (h : Within (x :: ws) s t) (hx : x.same s t) : Within ws s t :=
  have hsame (y : Field) (hy : y ∉ ws) : y.same s t := by
    by_cases e : y = x
    · exact e ▸ hx
    · exact h.same y (by simp [e, hy])
  { h with same := hsame }

theorem Within.trans (h : Within ws s t) (k : Within ws t u) : Within ws s u where
  toGrows := h.toGrows.trans k.toGrows
  same x hx := x.same_trans h.cfg (h.same x hx) (k.same x hx)
  inIrq := k.inIrq.trans h.inIrq
  halted := k.halted.trans h.halted
  main hs := (k.main (h.inIrq.trans hs)).trans (h.main hs)
  resumes task got hmem := h.resumes task got (k.resumes task got hmem)

end

/-! ## What each update writes -/

section
variable {ws : List Field} {s t : State}

/-- `Within`, field by field. -/
theorem within_iff :
    Within ws s t ↔
      (t.cfg = s.cfg ∧ s.log <+: t.log ∧ s.bus.trace <+: t.bus.trace ∧
        (s.fl.handlerSet = true → t.fl.handlerSet = true) ∧ (s.nic.qh = .queueQ → t.nic.qh = .queueQ) ∧
        t.nic.prom.length = s.nic.prom.length ∧ (s.iso.bitcnt.toNat ≤ 72 → t.iso.bitcnt.toNat ≤ 72)) ∧
      ((.lfsr ∉ ws → t.iso.lfsr = s.iso.lfsr) ∧
        (.ident ∉ ws → t.iso.id = s.iso.id ∧ t.iso.bitcnt = s.iso.bitcnt) ∧
        (.rdp ∉ ws → t.iso.rdp = s.iso.rdp ∧ t.wr.rdp = s.wr.rdp) ∧
        (.key ∉ ws → t.iso.keySent = s.iso.keySent) ∧
        (.decoder ∉ ws → t.dec = s.dec) ∧
        (.table ∉ ws → t.dev = s.dev) ∧
        (.count ∉ ws → t.dev.length = s.dev.length) ∧
        (.fresh ∉ ws → t.fresh = s.fresh) ∧
        (.driver ∉ ws → t.nic.bound = s.nic.bound ∧ t.nic.qh = s.nic.qh) ∧
        (.prom ∉ ws → t.nic.prom = s.nic.prom) ∧
        (.nextPkt ∉ ws → t.nic.nextPkt = s.nic.nextPkt) ∧
        (.phase ∉ ws → t.phase = s.phase) ∧
        (.handler ∉ ws → t.fl.handlerSet = s.fl.handlerSet) ∧
        (.mask ∉ ws → t.fl.lineMasked = s.fl.lineMasked) ∧
        (.ifl ∉ ws → t.fl.ifl = s.fl.ifl) ∧
        (.q ∉ ws → t.q = s.q) ∧
        (.taken ∉ ws → t.taken = s.taken) ∧
        (.heap ∉ ws → t.heap = s.heap) ∧
        (.ports ∉ ws → t.nic.iobase = s.nic.iobase ∧
          GrowsBy (nicEvent s.cfg.num s.nic.iobase) s.bus.trace t.bus.trace) ∧
        (.todo ∉ ws → t.ctl.main.todo = s.ctl.main.todo)) ∧
      t.ctl.inIrq = s.ctl.inIrq ∧ t.fl.halted = s.fl.halted ∧ (s.ctl.inIrq = true → t.ctl.main = s.ctl.main) ∧
      ∀ task got, Task.resume task got ∈ t.ctl.main.todo → Task.resume task got ∈ s.ctl.main.todo := by
  have hall := field_forall (P := fun x => x ∉ ws → x.same s t)
  constructor
  · intro h
    exact ⟨⟨h.cfg, h.log, h.trace, h.handlerSet, h.qh, h.prom, h.bitcnt⟩, hall.1 h.same, h.inIrq, h.halted, h.main,
      h.resumes⟩
  · rintro ⟨⟨hcfg, hlog, htrace, hset, hqh, hprom, hbitcnt⟩, hsame, hirq, hhalted, hmain, hresumes⟩
    exact ⟨⟨hcfg, hlog, htrace, hset, hqh, hprom, hbitcnt⟩, hall.2 hsame, hirq, hhalted, hmain, hresumes⟩

theorem within_refl : Within ws s s := by simp [within_iff]

/-! ### Contexts and results -/

theorem main_setResult (r : Result) :
    (setResult r s).ctl.main = if s.ctl.inIrq then s.ctl.main else { s.ctl.main with result := r } := by
  cases h : s.ctl.inIrq <;> simp [setResult, State.setActive, State.active, h]

theorem main_push (ts : List Task) :
    (push ts s).ctl.main = if s.ctl.inIrq then s.ctl.main else { s.ctl.main with todo := ts ++ s.ctl.main.todo } := by
  cases h : s.ctl.inIrq <;> simp [push, State.setActive, State.active, h]

@[simp] theorem within_setResult (r : Result) : Within ws s (setResult r s) := by
  cases h : s.ctl.inIrq <;> simp [within_iff, main_setResult, h]

/-- No step that an operation leaves to be done is the rest of a split one. -/
@[simp] theorem within_push {ts : List Task} (hts : ∀ task got, Task.resume task got ∉ ts) (h : .todo ∈ ws) :
    Within ws s (push ts s) := by
  cases hi : s.ctl.inIrq <;> simp [within_iff, main_push, hi, h, hts]

@[simp] theorem within_logFailure (f : Failure) : Within ws s (logFailure f s) := by simp [within_iff]

@[simp] theorem within_raise (f : Failure) : Within ws s (raise f s) := by
  unfold raise
  split
  · exact (within_logFailure f).trans (within_setResult _)
  · exact within_setResult _

@[simp] theorem within_setPhase (p : Phase) (h : .phase ∈ ws) : Within ws s (setPhase p s) := by
  simp [within_iff, h]

/-! ### Isolation -/

@[simp] theorem within_setLfsr (v : Byte) (h : .lfsr ∈ ws) : Within ws s (setLfsr v s) := by simp [within_iff, h]

@[simp] theorem within_shiftLfsr (b : Bool) (h : .lfsr ∈ ws) : Within ws s (shiftLfsr b s) := within_setLfsr _ h

@[simp] theorem within_setId (v : BitVec 72) (h : .ident ∈ ws) : Within ws s (setId v s) := by simp [within_iff, h]

@[simp] theorem within_setBitcnt {n : BitVec 7} (hn : n.toNat ≤ 72) (h : .ident ∈ ws) :
    Within ws s (setBitcnt n s) := by simp [within_iff, h, hn]

@[simp] theorem within_setKeySent (h : .key ∈ ws) : Within ws s (setKeySent s) := by simp [within_iff, h]

@[simp] theorem within_setRdpReg (p : Half) (h : .rdp ∈ ws) : Within ws s (setRdpReg p s) := by simp [within_iff, h]

/-! ### The decoder and the device table -/

@[simp] theorem within_clearCsum (h : .decoder ∈ ws) : Within ws s (clearCsum s) := by simp [within_iff, h]

@[simp] theorem within_addCsum (b : Byte) (h : .decoder ∈ ws) : Within ws s (addCsum b s) := by simp [within_iff, h]

@[simp] theorem within_setCurld (c : CurLd) (h : .decoder ∈ ws) : Within ws s (setCurld c s) := by
  simp [within_iff, h]

@[simp] theorem within_setIocfg (v : Byte) (h : .decoder ∈ ws) : Within ws s (setIocfg v s) := by simp [within_iff, h]

@[simp] theorem within_setIrqcfg (v : Byte) (h : .decoder ∈ ws) : Within ws s (setIrqcfg v s) := by
  simp [within_iff, h]

@[simp] theorem within_setCard (i : Nat) (h : .decoder ∈ ws) : Within ws s (setCard i s) := by simp [within_iff, h]

@[simp] theorem within_modCrd (i : Nat) (f : Crd → Crd) (h : .table ∈ ws) : Within ws s (modCrd i f s) := by
  simp [within_iff, h]

@[simp] theorem within_modLd (i j : Nat) (f : LogicalDevice → LogicalDevice) (h : .table ∈ ws) :
    Within ws s (modLd i j f s) := within_modCrd i _ h

@[simp] theorem within_assignIo (i j k : Nat) (b : Half) (h : .table ∈ ws) : Within ws s (assignIo i j k b s) :=
  (within_modLd i j _ h).trans (within_setResult .ok)

@[simp] theorem within_assignIrq (i j : Nat) (r : IrqRes) (h : .table ∈ ws) : Within ws s (assignIrq i j r s) :=
  (within_modLd i j _ h).trans (within_setResult .ok)

@[simp] theorem within_setFresh (e : Entry) (h : .fresh ∈ ws) : Within ws s (setFresh e s) := by simp [within_iff, h]

@[simp] theorem within_modFresh (f : Entry → Entry) (h : .fresh ∈ ws) : Within ws s (modFresh f s) := by
  simp [within_iff, h]

@[simp] theorem within_fillDevice (h : .fresh ∈ ws) : Within ws s (fillDevice s) := within_setFresh _ h

theorem within_noFresh (h : .fresh ∈ ws) : Within ws s { s with fresh := none } := by simp [within_iff, h]

@[simp] theorem within_countDevice (hfresh : .fresh ∈ ws) (htable : .table ∈ ws) (hcount : .count ∈ ws) :
    Within ws s (countDevice s) := by simp [within_iff, hfresh, htable, hcount]

@[simp] theorem within_countLd (i : Nat) (hfresh : .fresh ∈ ws) (htable : .table ∈ ws) : Within ws s (countLd i s) := by
  rcases countLd_cases s i with ⟨l, -, e⟩ | ⟨-, e⟩ <;> rw [e]
  · exact (within_modCrd i _ htable).trans (within_noFresh hfresh)
  · exact within_refl

@[simp] theorem within_countIn (i j : Nat) (hfresh : .fresh ∈ ws) (htable : .table ∈ ws) :
    Within ws s (countIn i j s) := by
  rcases countIn_cases s i j with ⟨_, f, -, -, e⟩ | e <;> rw [e]
  · exact (within_modLd i j f htable).trans (within_noFresh hfresh)
  · exact within_refl

/-! ### The NIC, the interrupt flags and the queue -/

@[simp] theorem within_setPage (p : Option RegPage) : Within ws s (setPage p s) := by simp [within_iff]

@[simp] theorem within_setIobase (b : Half) (h : .ports ∈ ws) : Within ws s (setIobase b s) := by simp [within_iff, h]

@[simp] theorem within_setQh (h : .driver ∈ ws) : Within ws s (setQh s) := by simp [within_iff, h]

@[simp] theorem within_setBound (h : .driver ∈ ws) : Within ws s (setBound s) := by simp [within_iff, h]

@[simp] theorem within_setProm (i : Nat) (v : Byte) (h : .prom ∈ ws) : Within ws s (setProm i v s) := by
  simp [within_iff, h]

@[simp] theorem within_setNextPkt (v : Byte) (h : .nextPkt ∈ ws) : Within ws s (setNextPkt v s) := by
  simp [within_iff, h]

@[simp] theorem within_advanceNext (h : .nextPkt ∈ ws) : Within ws s (advanceNext s) := by simp [within_iff, h]

@[simp] theorem within_setHeader (w₀ w₁ : Half) : Within ws s (setHeader w₀ w₁ s) := by simp [within_iff]

@[simp] theorem within_setFr (r : Option FrameRec) : Within ws s (setFr r s) := by simp [within_iff]

@[simp] theorem within_setAddresses (e : EthHeader) : Within ws s (setAddresses e s) := by simp [within_iff]

@[simp] theorem within_setIsrseen (v : Byte) : Within ws s (setIsrseen v s) := by simp [within_iff]

@[simp] theorem within_setHandler (h : .handler ∈ ws) : Within ws s (setHandler s) := by simp [within_iff, h]

@[simp] theorem within_setLineMasked (b : Bool) (h : .mask ∈ ws) : Within ws s (setLineMasked b s) := by
  simp [within_iff, h]

@[simp] theorem within_setIf (b : Bool) (h : .ifl ∈ ws) : Within ws s (setIf b s) := by simp [within_iff, h]

@[simp] theorem within_appendQ (fs : List Frame) (h : .q ∈ ws) : Within ws s (appendQ fs s) := by simp [within_iff, h]

@[simp] theorem within_dequeueBody (hq : .q ∈ ws) (htaken : .taken ∈ ws) : Within ws s (dequeueBody s) := by
  have htake (rest fs : List Frame) : Within ws s { s with q := rest, taken := fs } := by
    simp [within_iff, hq, htaken]
  cases h : s.q with
  | nil => rw [dequeueBody_nil h]; exact within_setResult _
  | cons f rest => rw [dequeueBody_cons h]; exact (htake _ _).trans (within_setResult _)

@[simp] theorem within_qGuard (body : List Line) (hif : .ifl ∈ ws) (htodo : .todo ∈ ws) :
    Within ws s (qGuard body s) := (within_setIf false hif).trans (within_push (by simp) htodo)

/-! ### The environment -/

/-- Port accesses change nothing else; `ports` where one of them may be outside the receive pipeline's. -/
theorem within_accesses {es : List Event} (h : PortsOnly es s t)
    (hes : .ports ∈ ws ∨ ∀ e ∈ es, nicEvent s.cfg.num s.nic.iobase e) : Within ws s t := by
  rw [h]
  have hgrows : .ports ∉ ws → GrowsBy (nicEvent s.cfg.num s.nic.iobase) s.bus.trace (s.bus.trace ++ es) :=
    fun hports => ⟨es, rfl, hes.resolve_left hports⟩
  simpa [within_iff] using hgrows

@[simp] theorem within_request (e : Event) (h : .ports ∈ ws) : Within ws s (request e s) := by
  simp [within_iff, h, request, Bus.emit]

/-- What comes of the bus alone is no access. -/
theorem within_bus {b : Bus} (h : b.trace = s.bus.trace) : Within ws s { s with bus := b } := by
  simp [within_iff, h]

theorem within_drawn : Within ws s (drawn s) := within_bus rfl

@[simp] theorem within_readDevice (i : Nat) : Within ws s (readDevice i s).2 := by
  unfold readDevice
  split
  · exact within_refl
  · exact within_drawn

@[simp] theorem within_readLd (i j : Nat) : Within ws s (readLd i j s).2 := by
  unfold readLd
  split
  · exact within_refl
  · exact within_drawn

@[simp] theorem within_readIo (i j k : Nat) : Within ws s (readIo i j k s).2 := by
  unfold readIo
  split
  · exact within_refl
  · exact within_drawn

@[simp] theorem within_readFr : Within ws s (readFr s).2 := by
  unfold readFr
  split
  · exact within_refl
  · exact within_drawn

@[simp] theorem within_readFilledFr : Within ws s (readFilledFr s).2 := by
  obtain ⟨-, b, -, e, hb, -⟩ := readFilledFr_cases s
  rw [e]
  exact within_bus hb

@[simp] theorem within_bindBase : Within ws s (bindBase s).2 := by
  unfold bindBase
  split
  · exact within_refl
  · split
    · exact within_refl
    · exact within_drawn

@[simp] theorem within_allocate (n : Nat) (h : .heap ∈ ws) : Within ws s (allocate n s).2 := by
  have hgrows (answer : Option Nat) :
      GrowsBy (nicEvent s.cfg.num s.nic.iobase) s.bus.trace (s.bus.trace ++ [.alloc n answer]) :=
    ⟨[_], rfl, List.forall_mem_singleton.2 trivial⟩
  rcases allocate_answers n s with ⟨b, hb, e⟩ | ⟨b, hb, e⟩ <;> rw [e] <;>
    simpa [within_iff, h, hb.trace] using fun _ => hgrows _

@[simp] theorem within_release (n : Nat) (h : .heap ∈ ws) : Within ws s (release n s) := by
  have hgrows : GrowsBy (nicEvent s.cfg.num s.nic.iobase) s.bus.trace (s.bus.trace ++ [.release n]) :=
    ⟨[_], rfl, List.forall_mem_singleton.2 trivial⟩
  simpa [within_iff, h, release, Bus.emit] using fun _ => hgrows

end

/-! ## Programs whose parts write no more than that -/

/-- Under the parameters `c` no part of the program writes a field but those of `ws`; the last part may leave steps to
be done. -/
def Writes (c : Params) (ws : List Field) : Prog → Prop
  | .done => True
  | .act f k =>
    (∀ s, s.cfg = c → Within ws s (f s).2 ∨ (k (f s).1).isDone = true ∧ Within (.todo :: ws) s (f s).2) ∧
      ∀ v, Writes c ws (k v)

section
variable {c : Params} {ws : List Field} {k yes no : Prog}

@[simp] theorem writes_done : Writes c ws .done := trivial

theorem writes_act {f : State → Val × State} {k : Val → Prog} (hf : ∀ s, s.cfg = c → Within ws s (f s).2) :
    Writes c ws (.act f k) ↔ ∀ v, Writes c ws (k v) := and_iff_right fun s hs => .inl (hf s hs)

@[simp] theorem writes_upd {f : State → State} (hf : ∀ s, s.cfg = c → Within ws s (f s)) :
    Writes c ws (.upd f k) ↔ Writes c ws k := (writes_act hf).trans ⟨fun h => h .unit, fun h _ => h⟩

@[simp] theorem writes_last {f : State → State} (hf : ∀ s, s.cfg = c → Within (.todo :: ws) s (f s)) :
    Writes c ws (.last f) := ⟨fun s hs => .inr ⟨rfl, hf s hs⟩, fun _ => trivial⟩

@[simp] theorem writes_ite {p : Prop} [Decidable p] :
    Writes c ws (if p then yes else no) ↔ if p then Writes c ws yes else Writes c ws no := by split <;> rfl

/-! Parts that read a register, an entry of the table or `FR`. -/

@[simp] theorem writes_test {f : State → Bool} : Writes c ws (.test f yes no) ↔ Writes c ws yes ∧ Writes c ws no :=
  (writes_act fun _ _ => within_refl).trans ⟨fun h => ⟨h (.bool true), h (.bool false)⟩, fun h v => by
    cases hv : v.toBool <;> simp [h]⟩

@[simp] theorem writes_nat {f : State → Nat} {k : Nat → Prog} : Writes c ws (.nat f k) ↔ ∀ n, Writes c ws (k n) :=
  (writes_act fun _ _ => within_refl).trans ⟨fun h n => h (.nat n), fun h _ => h _⟩

@[simp] theorem writes_reg8 {f : State → Byte} {k : Byte → Prog} :
    Writes c ws (.reg8 f k) ↔ ∀ v, Writes c ws (k v) :=
  (writes_act fun _ _ => within_refl).trans ⟨fun h v => h (.byte v), fun h _ => h _⟩

@[simp] theorem writes_reg16 {f : State → Half} {k : Half → Prog} :
    Writes c ws (.reg16 f k) ↔ ∀ v, Writes c ws (k v) :=
  (writes_act fun _ _ => within_refl).trans ⟨fun h v => h (.half v), fun h _ => h _⟩

@[simp] theorem writes_page {k : Option RegPage → Prog} : Writes c ws (.page k) ↔ ∀ q, Writes c ws (k q) :=
  (writes_act fun _ _ => within_refl).trans ⟨fun h q => h (.page q), fun h _ => h _⟩

@[simp] theorem writes_curld {k : CurLd → Prog} : Writes c ws (.curld k) ↔ ∀ x, Writes c ws (k x) :=
  (writes_act fun _ _ => within_refl).trans ⟨fun h x => h (.curld x), fun h _ => h _⟩

@[simp] theorem writes_ld {i j : State → Nat} {k : LogicalDevice → Prog} :
    Writes c ws (.ld i j k) ↔ ∀ l, Writes c ws (k l) :=
  (writes_act fun _ _ => within_readLd _ _).trans ⟨fun h l => h (.ld l), fun h v => by
    cases v with
    | ld l => exact h l
    | _ => trivial⟩

@[simp] theorem writes_io {i j n : Nat} {k : IoRange → Prog} : Writes c ws (.io i j n k) ↔ ∀ d, Writes c ws (k d) :=
  (writes_act fun _ _ => within_readIo _ _ _).trans ⟨fun h d => h (.io d), fun h v => by
    cases v with
    | io d => exact h d
    | _ => trivial⟩

@[simp] theorem writes_frameRec {f : State → FrameRec × State} {k : FrameRec → Prog}
    (hf : ∀ s, s.cfg = c → Within ws s (f s).2) : Writes c ws (.frameRec f k) ↔ ∀ r, Writes c ws (k r) :=
  (writes_act hf).trans ⟨fun h r => h (.frameRec r), fun h v => by
    cases v with
    | frameRec r => exact h r
    | _ => trivial⟩

@[simp] theorem writes_byte {f : State → Byte × State} {k : Byte → Prog}
    (hf : ∀ s, s.cfg = c → Within ws s (f s).2) : Writes c ws (.byte f k) ↔ ∀ v, Writes c ws (k v) :=
  (writes_act hf).trans ⟨fun h v => h (.byte v), fun h _ => h _⟩

theorem writes_half {f : State → Half × State} {k : Half → Prog}
    (hf : ∀ s, s.cfg = c → Within ws s (f s).2) : Writes c ws (.half f k) ↔ ∀ v, Writes c ws (k v) :=
  (writes_act hf).trans ⟨fun h v => h (.half v), fun h _ => h _⟩

/-! Accesses: anywhere where `ws` has `ports`, else at a register that the receive pipeline uses (44). -/

@[simp] theorem writes_wr8 {port : Half} {v : Byte} (h : .ports ∈ ws) :
    Writes c ws (.wr8 port v k) ↔ Writes c ws k :=
  writes_upd fun s _ => within_accesses (ioWrite8_ports port v s) (.inl h)

@[simp] theorem writes_rd8 {port : Half} {k : Byte → Prog} (h : .ports ∈ ws) :
    Writes c ws (.rd8 port k) ↔ ∀ v, Writes c ws (k v) :=
  writes_byte fun s _ => within_accesses (ioRead8_ports port s) (.inl h)

@[simp] theorem writes_rdPort {k : Byte → Prog} (h : .ports ∈ ws) :
    Writes c ws (.rdPort k) ↔ ∀ v, Writes c ws (k v) :=
  writes_byte fun s _ => within_accesses (ioRead8_ports s.rdPort s) (.inl h)

@[simp] theorem writes_cfgWr {reg v : Byte} (h : .ports ∈ ws) : Writes c ws (.cfgWr reg v k) ↔ Writes c ws k :=
  (writes_wr8 h).trans (writes_wr8 h)

@[simp] theorem writes_cfgRd {reg : Byte} {k : Byte → Prog} (h : .ports ∈ ws) :
    Writes c ws (.cfgRd reg k) ↔ ∀ v, Writes c ws (k v) := (writes_wr8 h).trans (writes_rdPort h)

/-- An access to the window at such a register is one of the receive pipeline's. -/
theorem nicEvent_window {P : Event → Prop} {off : Half} {e : Event} (h : .ports ∈ ws ∨ isRxOffset c.num off)
    (he : isRxOffset c.num off → P e) : .ports ∈ ws ∨ ∀ e' ∈ [e], P e' :=
  h.imp_right fun hoff => List.forall_mem_singleton.2 (he hoff)

@[simp] theorem writes_neWr {off : Half} {v : Byte} (h : .ports ∈ ws ∨ isRxOffset c.num off) :
    Writes c ws (.neWr off v k) ↔ Writes c ws k := by
  refine writes_upd fun s hs => within_accesses (ioWrite8_ports _ v s) (nicEvent_window h fun hoff => ⟨off, ?_, rfl⟩)
  rwa [hs]

@[simp] theorem writes_neRd {off : Half} {k : Byte → Prog} (h : .ports ∈ ws ∨ isRxOffset c.num off) :
    Writes c ws (.neRd off k) ↔ ∀ v, Writes c ws (k v) := by
  refine writes_byte fun s hs => within_accesses (ioRead8_ports _ s) (nicEvent_window h fun hoff => ⟨off, ?_, rfl⟩)
  rwa [hs]

/-- A word of the FIFO. -/
@[simp] theorem writes_fifoRead16 {k : Half → Prog} : Writes c ws (fifoRead16 c k) ↔ ∀ w, Writes c ws (k w) := by
  refine writes_half fun s hs => within_accesses (ioRead16_ports _ s) (.inr (List.forall_mem_singleton.2 ?_))
  show s.nic.iobase + c.num.neData = s.nic.iobase + s.cfg.num.neData
  rw [hs]

/-! Results, steps left to be done, and guards. -/

@[simp] theorem writes_log (f : Failure) : Writes c ws (.log f k) ↔ Writes c ws k :=
  writes_upd fun _ _ => within_logFailure f

@[simp] theorem writes_answer (r : Result) : Writes c ws (.answer r) := writes_last fun _ _ => within_setResult r

@[simp] theorem writes_fail (f : Failure) : Writes c ws (.fail f) := writes_last fun _ _ => within_raise f

theorem writes_push {ts : List Task} (h : ∀ task got, Task.resume task got ∉ ts) :
    Writes c ws (.last (push ts)) := writes_last fun _ _ => within_push h (by simp)

@[simp] theorem writes_guardIf {body : Prog → Prog} (h : .ifl ∈ ws) :
    Writes c ws (.guardIf body k) ↔ ∀ b, Writes c ws (body (.upd (setIf b) k)) :=
  (writes_act fun _ _ => within_setIf false h).trans ⟨fun hk b => hk (.bool b), fun hk v => hk v.toBool⟩

end

/-! ### Isolation -/

section
variable {c : Params} {ws : List Field} {k : Prog}

theorem writes_keyPreamble (hports : .ports ∈ ws) (n : Nat) :
    Writes c ws (keyPreamble n k) ↔ Writes c ws k := by
  induction n with
  | zero => rfl
  | succ n ih => exact (writes_wr8 hports).trans ih

theorem writes_keyBytes (hports : .ports ∈ ws) (hlfsr : .lfsr ∈ ws) (n : Nat) (hk : Writes c ws k) :
    Writes c ws (keyBytes n k) := by
  induction n with
  | zero => exact hk
  | succ n ih =>
    exact (writes_upd fun s _ => within_accesses (ioWrite8_ports _ _ s) (.inl hports)).2
      ((writes_upd fun _ _ => within_shiftLfsr false hlfsr).2 ih)

theorem writes_keySend : Writes c [.lfsr, .key, .ports] (keySend c) :=
  (writes_keyPreamble (by simp) _).2 <| (writes_upd fun _ _ => within_setLfsr _ (by simp)).2 <|
    writes_keyBytes (by simp) (by simp) _ <| writes_last fun _ _ => within_setKeySent (by simp)

@[simp] theorem writes_idSample {k : Half → Prog} (hports : .ports ∈ ws) (hk : ∀ w, Writes c ws (k w)) :
    Writes c ws (idSample k) := by simp [idSample, hports, hk]

@[simp] theorem writes_sampleResult (w : Half) : Writes c ws (sampleResult w) := by
  unfold sampleResult
  split <;> simp

theorem writes_idStore {n : Nat} (hn : n < 72) (b : Bool) (hident : .ident ∈ ws) (hlfsr : .lfsr ∈ ws)
    (hk : Writes c ws k) : Writes c ws (idStore n b k) := by
  have hcount : Writes c ws (.upd (setBitcnt (BitVec.ofNat 7 (n + 1))) k) :=
    (writes_upd fun _ _ => within_setBitcnt (by rw [BitVec.toNat_ofNat]; omega) hident).2 hk
  refine (writes_upd fun _ _ => within_setId _ hident).2 ?_
  split
  · exact (writes_upd fun _ _ => within_shiftLfsr b hlfsr).2 hcount
  · exact hcount

theorem writes_idBits (hports : .ports ∈ ws) (hident : .ident ∈ ws) (hlfsr : .lfsr ∈ ws) {n : Nat}
    {k : Option Failure → Prog} (hk : ∀ r, Writes c ws (k r)) : Writes c ws (idBits n k) := by
  induction n with
  | zero => exact hk _
  | succ n ih =>
    refine writes_idSample hports fun w => ?_
    split
    · exact hk _
    · exact writes_idStore (Nat.sub_lt (by decide) (Nat.succ_pos n)) _ hident hlfsr ih

theorem writes_idRead (hports : .ports ∈ ws) (hident : .ident ∈ ws) (hlfsr : .lfsr ∈ ws) {k : Option Failure → Prog}
    (hk : ∀ r, Writes c ws (k r)) : Writes c ws (idRead k) :=
  (writes_upd fun _ _ => within_setLfsr _ hlfsr).2 <| (writes_upd fun _ _ => within_setBitcnt (by decide) hident).2 <|
    (writes_upd fun _ _ => within_setId _ hident).2 <| writes_idBits hports hident hlfsr fun r => by
      cases r <;> simp [hk]

theorem writes_idReadOp : Writes c [.lfsr, .ident, .ports] (idReadOp c) :=
  writes_idRead (by simp) (by simp) (by simp) fun r => by cases r <;> simp [idReadResult]

theorem writes_isoRound (first : Bool) :
    Writes c [.lfsr, .ident, .decoder, .table, .count, .fresh, .ports] (isoRound first c) := by
  have hround : Writes c [.lfsr, .ident, .decoder, .table, .count, .fresh, .ports]
      (isoSelect c <| idRead fun r => match r with | some _ => .answer .noneFound | none => isoStore c) :=
    (writes_wr8 (by simp)).2 <| writes_idRead (by simp) (by simp) (by simp) fun r => by
      cases r <;> simp [isoStore, setCsn]
  unfold isoRound
  cases first with
  | true => exact hround
  | false => exact (writes_cfgWr (by simp)).2 hround

theorem writes_enumAt (n : Nat) : Writes c [.rdp, .phase, .ports] (enumAt n c) := by simp [enumAt, wake, setRdp]

theorem writes_enumRounds (n : Nat) (first found : Bool) : Writes c [.phase] (enumRounds n first found c) := by
  simp [enumRounds]

theorem writes_enumAfter (n : Nat) (found : Bool) : Writes c [.phase] (enumAfter n found c) := by simp [enumAfter]

end

/-! ### The resource decoder -/

section
variable {c : Params} {ws : List Field} {k : Prog}

/-- A byte of the stream, or the rest of the operation stays to be done (41 R170). -/
theorem writes_rdPoll {ready : Byte → Prog} {ts : List Task} (hports : .ports ∈ ws) (hdec : .decoder ∈ ws)
    (hts : ∀ task got, Task.resume task got ∉ ts) (hready : ∀ b, Writes c ws (ready b)) :
    Writes c ws (rdPoll c ready (.last (push ts))) := by
  refine (writes_cfgRd hports).2 fun status => ?_
  split
  · exact (writes_cfgRd hports).2 fun b => (writes_upd fun _ _ => within_addCsum b hdec).2 (hready b)
  · exact writes_push hts

theorem writes_rdByte : Writes c [.decoder, .ports] (rdByte c) :=
  writes_rdPoll (by simp) (by simp) (by simp) fun _ => writes_answer _

theorem writes_headerHigh (h l0 : Byte) : Writes c [.decoder, .ports] (headerHigh h l0 c) :=
  writes_rdPoll (by simp) (by simp) (by simp) fun _ => writes_answer _

theorem writes_headerLow (h : Byte) : Writes c [.decoder, .ports] (headerLow h c) :=
  writes_rdPoll (by simp) (by simp) (by simp) (writes_headerHigh h)

theorem writes_rdHeader : Writes c [.decoder, .ports] (rdHeader c) :=
  writes_rdPoll (by simp) (by simp) (by simp) fun h => by simp [headerForm, writes_headerLow]

theorem writes_headerRest (got : List Byte) : Writes c [.decoder, .ports] (headerRest got c) := by
  unfold headerRest
  split
  · exact writes_rdHeader
  · exact writes_headerLow _
  · exact writes_headerHigh _ _

theorem writes_rdDecode (i : Byte) : Writes c [.decoder] (rdDecode i c) := by simp [rdDecode, decodeTurn]

@[simp] theorem writes_updCrd (f : Crd → Crd) (h : .table ∈ ws) : Writes c ws (updCrd f k) ↔ Writes c ws k :=
  writes_upd fun _ _ => within_modCrd _ f h

@[simp] theorem writes_updLd (j : Nat) (f : LogicalDevice → LogicalDevice) (h : .table ∈ ws) :
    Writes c ws (updLd j f k) ↔ Writes c ws k := writes_upd fun _ _ => within_modLd _ j f h

@[simp] theorem writes_updIrq (j : Nat) (f : State → IrqRes → IrqRes) (h : .table ∈ ws) :
    Writes c ws (updIrq j f k) ↔ Writes c ws k := writes_upd fun _ _ => within_modLd _ j _ h

@[simp] theorem writes_fill (e : Entry) (h : .fresh ∈ ws) : Writes c ws (fill e k) ↔ Writes c ws k :=
  writes_upd fun _ _ => within_setFresh e h

@[simp] theorem writes_countNew (j : Nat) (hfresh : .fresh ∈ ws) (htable : .table ∈ ws) :
    Writes c ws (countNew j k) ↔ Writes c ws k := writes_upd fun _ _ => within_countIn _ j hfresh htable

@[simp] theorem writes_cardLd (j : Nat) {k : LogicalDevice → Prog} :
    Writes c ws (cardLd j k) ↔ ∀ l, Writes c ws (k l) := writes_ld

@[simp] theorem writes_attach {f : Fin 4 → Prog} : Writes c ws (attach f) ↔ ∀ j, Writes c ws (f j) := by
  refine ⟨fun h j => writes_curld.1 h (.index j), fun h => writes_curld.2 fun x => ?_⟩
  cases x with
  | none => simp
  | overflow => trivial
  | index j => exact h j

/-- What a record's operation writes (41 R173 to R183). -/
def recordWrites : RecKind → List Field
  | .version | .dma | .ansi => [.table]
  | .irq => [.table, .decoder]
  | .compat | .mem | .mem32 => [.table, .fresh]
  | .logdev | .ioport => [.table, .fresh, .decoder]
  | .endTag => []

theorem writes_recLogdev (body : List Byte) : Writes c [.table, .fresh, .decoder] (recLogdev body c) :=
  (writes_act fun _ _ => within_readDevice _).2 fun n => by simp [newLd, fillLd]

theorem writes_recAnsi (body : List Byte) : Writes c [.table] (recAnsi body c) :=
  writes_curld.2 fun x => by cases x <;> simp

theorem writes_recMemory (kind : MemKind) (tag : Byte) (body : List Byte) :
    Writes c [.table, .fresh] (recMemory kind tag body c) := by
  unfold recMemory
  split <;> simp [recUnknown]

theorem writes_runRecord (r : RecKind) (body : List Byte) : Writes c (recordWrites r) (runRecord r body c) := by
  cases r with
  | version => simp [runRecord, recordWrites, recVersion]
  | logdev => exact writes_recLogdev body
  | compat => simp [runRecord, recordWrites, recCompat]
  | irq => simp [runRecord, recordWrites, recIrq]
  | dma => simp [runRecord, recordWrites, recDma]
  | ioport => simp [runRecord, recordWrites, recIoport, newIo, fillIo]
  | ansi => exact writes_recAnsi body
  | endTag => simp [runRecord, recordWrites, recEnd]
  | mem => exact writes_recMemory _ _ body
  | mem32 => exact writes_recMemory _ _ body

theorem Writes.mono {vs : List Field} {p : Prog} (h : Writes c vs p) (hsub : vs ⊆ ws) : Writes c ws p := by
  induction p with
  | done => trivial
  | act f k ih =>
    exact ⟨fun s hs => (h.1 s hs).imp (·.mono hsub) (And.imp_right (·.mono (List.cons_subset_cons _ hsub))),
      fun v => ih v (h.2 v)⟩

/-- What a body is read for, with its bytes, writes. -/
def bodyWrites : BodyUse → List Field
  | .plain => [.decoder, .ports]
  | .record k => .decoder :: .ports :: recordWrites k

theorem writes_bodyDone (u : BodyUse) (body : List Byte) : Writes c (bodyWrites u) (bodyDone u body c) := by
  cases u with
  | plain => simp [bodyDone]
  | record r =>
    have hrun : Writes c (bodyWrites (.record r)) (runRecord r body c) :=
      (writes_runRecord r body).mono fun x hx => by simp [bodyWrites, hx]
    simp [bodyDone, recordDone, hrun]

theorem writes_readBody (u : BodyUse) (n : Nat) (got : List Byte) : Writes c (bodyWrites u) (readBody u c n got) := by
  induction n generalizing got with
  | zero => exact writes_bodyDone u _
  | succ n ih =>
    have hports : .ports ∈ bodyWrites u ∧ .decoder ∈ bodyWrites u := by cases u <;> simp [bodyWrites]
    exact writes_rdPoll hports.1 hports.2 (by simp) fun b => ih _

theorem writes_memoryRecord (r : RecKind) (len : Half) : Writes c (bodyWrites (.record r)) (memoryRecord r len c) := by
  unfold memoryRecord
  split
  · exact writes_readBody _ _ _
  · exact writes_fail _

end

/-! ### The allocator -/

section
variable {c : Params} {ws : List Field} {k : Prog}

theorem writes_cfgSelect (i j : Nat) (hports : .ports ∈ ws) (hk : Writes c ws k) : Writes c ws (cfgSelect c i j k) :=
  (writes_byte fun _ _ => within_readDevice i).2 fun csn => by simp [wake, selectLd, hports, hk]

theorem writes_probeSweep (hports : .ports ∈ ws) {k : Bool → Prog} (hk : ∀ b, Writes c ws (k b)) (ps : List Half) :
    Writes c ws (probeSweep k ps) := by
  induction ps with
  | nil => exact hk _
  | cons p ps ih => simp [probeSweep, hports, ih, hk]

theorem writes_probePasses (hports : .ports ∈ ws) (ports : List Half) {k : Bool → Prog} (hk : ∀ b, Writes c ws (k b))
    (n : Nat) : Writes c ws (probePasses ports k n) := by
  induction n with
  | zero => exact hk _
  | succ n ih => exact writes_probeSweep hports (fun clean => by simp [ih, hk]) _

theorem writes_ioSearch (hports : .ports ∈ ws) (d : IoRange) {k : Option Half → Prog} (hk : ∀ r, Writes c ws (k r))
    (n base : Nat) : Writes c ws (ioSearch c d k n base) := by
  induction n generalizing base with
  | zero => exact hk _
  | succ n ih =>
    unfold ioSearch
    split
    · exact writes_probePasses hports _ (fun clean => by simp [ih, hk, hports]) _
    · exact hk _

theorem writes_cfgIo (hports : .ports ∈ ws) (htable : .table ∈ ws) (i j n : Nat) {next : Bool → Prog}
    (hk : ∀ b, Writes c ws (next b)) : Writes c ws (cfgIo c i j n next) :=
  writes_io.2 fun d => writes_ioSearch hports d (fun r => by cases r <;> simp [hk, htable]) _ _

theorem writes_cfgIoOp (i j n : Byte) : Writes c [.table, .ports] (cfgIoOp i j n c) := by
  unfold cfgIoOp
  exact writes_cfgIo (by simp) (by simp) _ _ _ fun _ => writes_done

theorem writes_cfgIrq (hports : .ports ∈ ws) (htable : .table ∈ ws) (i j : Nat) {next : Bool → Prog}
    (hk : ∀ b, Writes c ws (next b)) : Writes c ws (cfgIrq i j next) :=
  writes_ld.2 fun l => by split <;> simp [hk, hports, htable]

@[simp] theorem writes_cfgActivate (i j : Nat) (hports : .ports ∈ ws) (htable : .table ∈ ws) :
    Writes c ws (cfgActivate c i j k) ↔ Writes c ws k := by simp [cfgActivate, selectLd, hports, htable]

theorem writes_cfgRanges (hports : .ports ∈ ws) (htable : .table ∈ ws) (i j : Nat) {next : Bool → Prog}
    (hk : ∀ b, Writes c ws (next b)) (ns : List Nat) : Writes c ws (cfgRanges c i j next ns) := by
  induction ns with
  | nil => exact hk _
  | cons n ns ih => exact writes_cfgIo hports htable i j n fun ok => by simp [ih, hk]

theorem writes_cfgDevice (hports : .ports ∈ ws) (htable : .table ∈ ws) (i j : Nat) (hk : Writes c ws k) :
    Writes c ws (cfgDevice c i j k) := by
  refine writes_ld.2 fun l => writes_cfgSelect i j hports <| writes_cfgRanges hports htable i j (fun ok => ?_) _
  split
  · exact writes_cfgIrq hports htable i j fun ok => by simp [deviceResult, hk, hports, htable]
  · simp [deviceResult, hk]

theorem writes_cfgLds (hports : .ports ∈ ws) (htable : .table ∈ ws) (i : Nat) (hk : Writes c ws k) (js : List Nat) :
    Writes c ws (cfgLds c i k js) := by
  induction js with
  | nil => exact hk
  | cons j js ih => simp [cfgLds, deviceLd, ih, writes_cfgDevice hports htable]

theorem writes_cfgCards (hports : .ports ∈ ws) (htable : .table ∈ ws) (is : List Nat) :
    Writes c ws (cfgCards c is) := by
  induction is with
  | nil => trivial
  | cons i is ih => simp [cfgCards, ih, writes_cfgLds hports htable]

end

/-! ### The NIC -/

section
variable {c : Params} {ws : List Field} {k : Prog}

@[simp] theorem writes_selectPage (p : RegPage) : Writes c ws (selectPage c p k) ↔ Writes c ws k := by
  simp [selectPage, isRxOffset]

@[simp] theorem writes_neCommand (cmd : Byte) : Writes c ws (neCommand c cmd k) ↔ Writes c ws k := by
  simp [neCommand, isRxOffset]

@[simp] theorem writes_bnryWrite (v : Byte) : Writes c ws (bnryWrite c v k) ↔ Writes c ws k := by
  simp [bnryWrite, isRxOffset]

@[simp] theorem writes_currWrite (v : Byte) : Writes c ws (currWrite c v k) ↔ Writes c ws k := by
  simp [currWrite, isRxOffset]

@[simp] theorem writes_currRead {k : Byte → Prog} : Writes c ws (currRead c k) ↔ ∀ v, Writes c ws (k v) := by
  simp [currRead, isRxOffset]

@[simp] theorem writes_rbcrWrite (v : Half) : Writes c ws (rbcrWrite c v k) ↔ Writes c ws k := by
  simp [rbcrWrite, isRxOffset]

@[simp] theorem writes_rsarWrite (v : Half) : Writes c ws (rsarWrite c v k) ↔ Writes c ws k := by
  simp [rsarWrite, isRxOffset]

@[simp] theorem writes_remoteRead (addr count : Half) : Writes c ws (remoteRead c addr count k) ↔ Writes c ws k := by
  simp [remoteRead]

@[simp] theorem writes_fifoRead8 {k : Byte → Prog} : Writes c ws (fifoRead8 c k) ↔ ∀ v, Writes c ws (k v) := by
  simp [fifoRead8, isRxOffset]

@[simp] theorem writes_neReadOp {off : Half} (h : .ports ∈ ws ∨ isRxOffset c.num off) :
    Writes c ws (neReadOp off) := by simp [neReadOp, h]

@[simp] theorem writes_fifoWords {k : List Half → Prog} (hk : ∀ xs, Writes c ws (k xs)) (n : Nat) (got : List Half) :
    Writes c ws (fifoWords c k n got) := by
  induction n generalizing got with
  | zero => exact hk _
  | succ n ih => simp [fifoWords, ih]

theorem writes_bind {onBound onNone : Prog} (hports : .ports ∈ ws) (hdriver : .driver ∈ ws) (hb : Writes c ws onBound)
    (hn : Writes c ws onNone) : Writes c ws (bind onBound onNone) :=
  (writes_act fun _ _ => within_bindBase).2 fun v => by
    dsimp only
    split <;> simp [hb, hn, hports, hdriver]

@[simp] theorem writes_resetPoll (h : .phase ∈ ws) : Writes c ws (resetPoll c) := by
  refine (writes_neRd (.inr (by simp [isRxOffset]))).2 fun v => writes_last fun s _ => ?_
  split <;> simp [h]

@[simp] theorem writes_startPoll (h : .phase ∈ ws) : Writes c ws (startPoll c) := by
  refine (writes_neRd (.inr (by simp [isRxOffset]))).2 fun v => writes_last fun s _ => ?_
  split <;> simp [h]

theorem writes_promWords (n : Nat) : Writes c [.prom] (promWords c n) := by
  induction n with
  | zero => trivial
  | succ n ih => simp [promWords, ih]

theorem writes_parWrites (hports : .ports ∈ ws) (hk : Writes c ws k) (n : Nat) : Writes c ws (parWrites c k n) := by
  induction n with
  | zero => exact hk
  | succ n ih => simp [parWrites, ih, hports]

end

/-! ### The queue and the receive pipeline -/

section
variable {c : Params} {ws : List Field} {k : Prog}

@[simp] theorem writes_enqueue (f : State → List Frame) (hif : .ifl ∈ ws) (hq : .q ∈ ws) :
    Writes c ws (enqueue f k) ↔ Writes c ws k := by simp [enqueue, hif, hq]

@[simp] theorem writes_dequeue (hif : .ifl ∈ ws) (hq : .q ∈ ws) (htaken : .taken ∈ ws) :
    Writes c ws (dequeue k) ↔ Writes c ws k := by simp [dequeue, hif, hq, htaken]

@[simp] theorem writes_rxPending {k : Bool → Prog} (hk : ∀ b, Writes c ws (k b)) : Writes c ws (rxPending c k) := by
  simp [rxPending, hk]

@[simp] theorem writes_rxHdr : Writes c ws (rxHdr c k) ↔ Writes c ws k := by simp [rxHdr]

@[simp] theorem writes_rxRunt {yes no : Prog} : Writes c ws (rxRunt yes no) ↔ Writes c ws yes ∧ Writes c ws no :=
  writes_test.trans (and_congr_left fun _ => writes_upd fun _ _ => within_logFailure _)

/-- Two requests of the heap, and what is left of the first goes back when the second is refused (44 R264). -/
theorem writes_rxAlloc (hheap : .heap ∈ ws) {k : Bool → Prog} (hk : ∀ b, Writes c ws (k b)) :
    Writes c ws (rxAlloc c k) := by
  refine (writes_act fun _ _ => within_allocate _ hheap).2 fun record => ?_
  dsimp only
  split
  · simp [hk]
  · refine writes_reg16.2 fun size => (writes_act fun _ _ => within_allocate _ hheap).2 fun buffer => ?_
    dsimp only
    split <;> simp [hk, hheap]

theorem writes_rxAddr (hk : Writes c ws k) : Writes c ws (rxAddr c k) := by simp [rxAddr, hk]

theorem writes_rxPayload (hif : .ifl ∈ ws) (hq : .q ∈ ws) (hk : Writes c ws k) :
    Writes c ws (rxPayload c k) := by simp [rxPayload, readPayload, hif, hq, hk]

theorem writes_rxDrop (hheap : .heap ∈ ws) (hk : Writes c ws k) : Writes c ws (rxDrop k) := by
  simp [rxDrop, hheap, hk]

@[simp] theorem writes_rxAdvance (h : .nextPkt ∈ ws) : Writes c ws (rxAdvance c k) ↔ Writes c ws k := by
  simp [rxAdvance, h]

theorem writes_rxFrame (hif : .ifl ∈ ws) (hq : .q ∈ ws) (hheap : .heap ∈ ws) (hnext : .nextPkt ∈ ws)
    (hk : Writes c ws k) : Writes c ws (rxFrame c k) := by
  have hadv : Writes c ws (rxAdvance c k) := (writes_rxAdvance hnext).2 hk
  refine writes_rxHdr.2 (writes_rxRunt.2 ⟨hadv, writes_rxAlloc hheap fun ok => ?_⟩)
  cases ok with
  | true => exact writes_rxAddr (writes_test.2 ⟨writes_rxPayload hif hq hadv, writes_rxDrop hheap hadv⟩)
  | false => exact hadv

@[simp] theorem writes_rxAck : Writes c ws (rxAck c) := by simp [rxAck, isRxOffset]

theorem writes_irqLoop : Writes c [.q, .ifl, .heap, .nextPkt] (irqLoop c) :=
  writes_rxPending fun b => by
    cases b with
    | true => exact writes_rxFrame (by simp) (by simp) (by simp) (by simp) (writes_push (by simp))
    | false => exact writes_rxAck

end

/-! ## Every operation -/

section
variable {c : Params}

theorem writes_neReset : Writes c [.phase, .ports] (neReset c) := by simp [neReset]

theorem writes_neBasicinit : Writes c [.phase, .ports] (neBasicinit c) := by simp [neBasicinit]

theorem writes_neMac : Writes c [.phase, .ports] (neMac c) :=
  (writes_selectPage _).2 <| writes_parWrites (by simp) (writes_last fun _ _ => within_setPhase _ (by simp)) _

theorem writes_neRing : Writes c [.nextPkt, .phase, .ports] (neRing c) := by simp [neRing]

theorem writes_neHook : Writes c [.handler, .mask, .phase, .ports] (neHook c) := by simp [neHook]

theorem writes_neLbclr : Writes c [.ifl, .phase, .ports] (neLbclr c) := by simp [neLbclr]

theorem writes_neInit : Writes c [.driver, .phase, .ports] (neInit c) :=
  writes_bind (by simp) (by simp) (writes_push (by simp [initTail]))
    (writes_last fun _ _ => within_setPhase _ (by simp))

theorem writes_rxIrq : Writes c [] (rxIrq c) := by simp [rxIrq, isRxOffset]

theorem writes_rxFrameOp : Writes c [.q, .ifl, .heap, .nextPkt] (rxFrameOp c) :=
  writes_rxFrame (by simp) (by simp) (by simp) (by simp) writes_done

theorem writes_qDeq : Writes c [.q, .taken, .ifl] (qDeq c) := by simp [qDeq]

theorem writes_qSize : Writes c [.ifl] (qSize c) := by simp [qSize]

theorem writes_qWait : Writes c [.q, .taken, .ifl] (qWait c) := by simp [qWait]

end

/-- The fields that an instruction's parts write; its last part may besides leave steps to be done. -/
def instrWrites : Instr → List Field
  | .keySend => [.lfsr, .key, .ports]
  | .pnpAddr _ | .pnpWr _ _ | .pnpRd _ | .pnpWake _ | .pnpIsosel | .pnpSetcsn _ | .idSample | .cfgSelect _ _ |
    .cfgProbe _ _ | .neRegWr _ _ | .neRegRd _ | .neIrqen | .pnpRegSerialIsolation | .pnpRegConfigControl _ |
    .pnpRegWake _ | .pnpRegResourceData | .pnpRegStatus | .pnpRegCsn _ | .pnpRegLogicalDevice _ | .pnpRegActivate _ |
    .pnpRegIoRangeCheck _ | .pnpRegIoBaseHi _ _ | .pnpRegIoBaseLo _ _ | .pnpRegIrqLevel _ | .pnpRegIrqType _ =>
    [.ports]
  | .pnpSetrdp _ | .pnpRegSetRdData _ => [.rdp, .ports]
  | .idRead => [.lfsr, .ident, .ports]
  | .isoRound _ => [.lfsr, .ident, .decoder, .table, .count, .fresh, .ports]
  | .rdByte | .rdHeader | .rdBody _ => [.decoder, .ports]
  | .recVersion _ => recordWrites .version
  | .recLogdev _ => recordWrites .logdev
  | .recCompat _ => recordWrites .compat
  | .recIrq _ => recordWrites .irq
  | .recDma _ => recordWrites .dma
  | .recIoport _ => recordWrites .ioport
  | .recAnsi _ => recordWrites .ansi
  | .recMem _ => recordWrites .mem
  | .recMem32 _ => recordWrites .mem32
  | .rdDecode _ => [.decoder]
  | .cfgIo _ _ _ | .cfgIrq _ _ | .cfgActivate _ _ | .cfgDevice _ _ | .cfgAll => [.table, .ports]
  | .tagVersion _ => bodyWrites (.record .version)
  | .tagLogdev _ => bodyWrites (.record .logdev)
  | .tagCompat _ => bodyWrites (.record .compat)
  | .tagIrq _ => bodyWrites (.record .irq)
  | .tagDma _ => bodyWrites (.record .dma)
  | .tagIoport _ => bodyWrites (.record .ioport)
  | .tagEnd _ => bodyWrites (.record .endTag)
  | .tagMem _ => bodyWrites (.record .mem)
  | .tagAnsi _ => bodyWrites (.record .ansi)
  | .tagMem32 _ => bodyWrites (.record .mem32)
  | .neBind => [.driver, .ports]
  | .neReset | .neBasicinit | .neMac => [.phase, .ports]
  | .neProm => [.prom]
  | .neRing => [.nextPkt, .phase, .ports]
  | .neStart => [.phase]
  | .neHook => [.handler, .mask, .phase, .ports]
  | .neLbclr => [.ifl, .phase, .ports]
  | .neInit => [.driver, .phase, .ports]
  | .rxAlloc | .rxDrop => [.heap]
  | .rxPayload | .qEnq _ => [.q, .ifl]
  | .rxAdvance => [.nextPkt]
  | .rxFrame => [.q, .ifl, .heap, .nextPkt]
  | .qDeq | .qWait => [.q, .taken, .ifl]
  | .qSize | .qGuard _ => [.ifl]
  | _ => []

theorem writes_allParts (c : Params) (i : Instr) : Writes c (instrWrites i) (allParts c i) := by
  cases i
  case pnpWr | pnpWake | pnpSetcsn | pnpRegConfigControl | pnpRegWake | pnpRegCsn | pnpRegLogicalDevice |
    pnpRegActivate | pnpRegIoRangeCheck | pnpRegIoBaseHi | pnpRegIoBaseLo | pnpRegIrqLevel | pnpRegIrqType =>
    exact (writes_cfgWr (.head _)).2 writes_done
  case pnpSetrdp | pnpRegSetRdData =>
    exact (writes_cfgWr (.tail _ (.head _))).2 ((writes_upd fun _ _ => within_setRdpReg _ (.head _)).2 writes_done)
  case pnpRd | pnpRegSerialIsolation | pnpRegResourceData | pnpRegStatus =>
    exact (writes_cfgRd (.head _)).2 fun _ => writes_answer _
  case pnpAddr | pnpIsosel => exact (writes_wr8 (.head _)).2 writes_done
  case neRegWr => exact (writes_neWr (.inl (.head _))).2 writes_done
  case lfsrShift | recEnd | rxClassify | idDecode => exact writes_last fun _ _ => within_setResult _
  case isoEnum | pnpEngine => exact writes_push (by simp)
  case qGuard => exact writes_last fun _ _ => within_qGuard _ (.tail _ (.head _)) (.head _)
  case recUnknown | smallUnknown0 | smallUnknown6 | smallUnknown7 | smallUnknown9 | smallUnknownA | smallUnknownB |
    smallUnknownC | smallUnknownD | smallUnknownE | largeUnknown => exact writes_fail _
  case sampleOne => exact writes_sampleResult Config.sampleOne
  case sampleZero => exact writes_sampleResult Config.sampleZero
  case sampleNocard v => exact writes_sampleResult v
  case keySend => exact writes_keySend
  case idSample => exact writes_idSample (.head _) writes_sampleResult
  case idRead => exact writes_idReadOp
  case isoRound => exact writes_isoRound _
  case rdByte => exact writes_rdByte
  case rdHeader => exact writes_rdHeader
  case rdBody => exact writes_readBody .plain _ _
  case tagVersion => exact writes_readBody (.record .version) _ _
  case tagLogdev => exact writes_readBody (.record .logdev) _ _
  case tagCompat => exact writes_readBody (.record .compat) _ _
  case tagIrq => exact writes_readBody (.record .irq) _ _
  case tagDma => exact writes_readBody (.record .dma) _ _
  case tagIoport => exact writes_readBody (.record .ioport) _ _
  case tagEnd => exact writes_readBody (.record .endTag) _ _
  case tagAnsi => exact writes_readBody (.record .ansi) _ _
  case tagMem | tagMem32 => exact writes_memoryRecord _ _
  case rdDecode i => exact writes_rdDecode i
  case recVersion body => exact writes_runRecord .version body
  case recLogdev body => exact writes_runRecord .logdev body
  case recCompat body => exact writes_runRecord .compat body
  case recIrq body => exact writes_runRecord .irq body
  case recDma body => exact writes_runRecord .dma body
  case recIoport body => exact writes_runRecord .ioport body
  case recAnsi body => exact writes_runRecord .ansi body
  case recMem body => exact writes_runRecord .mem body
  case recMem32 body => exact writes_runRecord .mem32 body
  case cfgMatch => exact writes_ld.2 fun _ => writes_answer _
  case cfgSelect => exact writes_cfgSelect _ _ (.head _) writes_done
  case cfgProbe => exact writes_probePasses (.head _) _ (fun _ => writes_answer _) _
  case cfgIo => exact writes_cfgIoOp _ _ _
  case cfgIrq => exact writes_cfgIrq (.tail _ (.head _)) (.head _) _ _ fun _ => writes_done
  case cfgActivate => exact (writes_cfgActivate _ _ (.tail _ (.head _)) (.head _)).2 writes_done
  case cfgDevice => exact writes_cfgDevice (.tail _ (.head _)) (.head _) _ _ writes_done
  case cfgAll => exact writes_nat.2 fun _ => writes_cfgCards (.tail _ (.head _)) (.head _) _
  case nePage => exact (writes_selectPage _).2 writes_done
  case neCmd | neDmaStop | cmdStop | cmdStart | cmdRread => exact (writes_neCommand _).2 writes_done
  case neBnryWr => exact (writes_bnryWrite _).2 writes_done
  case neCurrWr => exact (writes_currWrite _).2 writes_done
  case neRsar => exact (writes_rsarWrite _).2 writes_done
  case neRbcr => exact (writes_rbcrWrite _).2 writes_done
  case neRdmaRead => exact (writes_remoteRead _ _).2 writes_done
  case neBnryRd | neCurrRd => exact (writes_selectPage _).2 (writes_neReadOp (.inr (by simp [isRxOffset])))
  case neRegRd => exact writes_neReadOp (.inl (.head _))
  case neFifoRd8 => exact writes_neReadOp (.inr (by simp [isRxOffset]))
  case neFifoRd16 => exact writes_fifoRead16.2 fun _ => writes_answer _
  case neBind => exact writes_bind (.tail _ (.head _)) (.head _) (writes_answer _) writes_done
  case neReset => exact writes_neReset
  case neBasicinit => exact writes_neBasicinit
  case neProm => exact (writes_remoteRead _ _).2 (writes_promWords _)
  case neMac => exact writes_neMac
  case neRing => exact writes_neRing
  case neStart => exact (writes_neCommand _).2 (writes_startPoll (.head _))
  case neIrqen => exact (writes_selectPage _).2 ((writes_neWr (.inl (.head _))).2 writes_done)
  case neHook => exact writes_neHook
  case neLbclr => exact writes_neLbclr
  case neInit => exact writes_neInit
  case rxIrq => exact writes_rxIrq
  case rxPending => exact writes_rxPending fun _ => writes_answer _
  case rxHdr => exact writes_rxHdr.2 writes_done
  case rxRunt => exact writes_rxRunt.2 ⟨writes_answer _, writes_answer _⟩
  case rxAlloc => exact writes_rxAlloc (.head _) fun _ => writes_done
  case rxAddr => exact writes_rxAddr writes_done
  case rxPayload => exact writes_rxPayload (.tail _ (.head _)) (.head _) writes_done
  case rxDrop => exact writes_rxDrop (.head _) writes_done
  case rxAdvance => exact (writes_rxAdvance (.head _)).2 writes_done
  case rxFrame => exact writes_rxFrameOp
  case rxAck => exact writes_rxAck
  case qEnq => exact (writes_enqueue _ (.tail _ (.head _)) (.head _)).2 writes_done
  case qDeq => exact writes_qDeq
  case qSize => exact writes_qSize
  case qWait => exact writes_qWait

/-- What the parts of a placed task write: those of an instruction, or those of what an operation left to be done. -/
def taskWrites : Task → List Field
  | .op i => instrWrites i
  | .enumAt _ => [.rdp, .phase, .ports]
  | .enumRounds _ _ _ | .enumAfter _ _ | .resetPoll | .startPoll => [.phase]
  | .headerRest _ => [.decoder, .ports]
  | .bodyRest u _ _ => bodyWrites u
  | .irqLoop => [.q, .ifl, .heap, .nextPkt]
  | _ => []

theorem writes_taskProg (c : Params) (t : Task) : Writes c (taskWrites t) (taskProg c t) := by
  cases t with
  | op i =>
    show Writes c (instrWrites i) (instrProg c i)
    rcases instrProg_eq c i with h | h <;> rw [h]
    · exact writes_allParts c i
    · exact writes_done
  | enumAt k => exact writes_enumAt k
  | enumRounds k first found => exact writes_enumRounds k first found
  | enumAfter k found => exact writes_enumAfter k found
  | headerRest got => exact writes_headerRest got
  | bodyRest u n got => exact writes_readBody u n got
  | resetPoll => exact writes_resetPoll (.head _)
  | startPoll => exact writes_startPoll (.head _)
  | irqLoop => exact writes_irqLoop
  | _ => exact writes_done

/-! ## From a part to a run -/

section
variable {ws : List Field} {s t u : State}

/-- A boundary in the main context makes no access: it changes nothing but the environment, or a handler run starts
(60 R301, R302). -/
theorem deliver_writes (h : s.ctl.inIrq = false) :
    ((deliver s).ctl.inIrq = false ∧ Within [] s (deliver s)) ∨
      (s.fl.handlerSet = true ∧ ∃ b : Bus, b.trace = s.bus.trace ∧ deliver s = takeInterrupt { s with bus := b }) := by
  rcases deliver_cases s with ⟨hd, b, e, -, hb⟩ | ⟨b, e, -, hb⟩
  · exact .inr ⟨((deliverable_iff s).1 hd).1, b, hb, e⟩
  · exact .inl (e ▸ ⟨h, within_bus hb⟩)

/-- From `s` to `u` the parts of step `t` ran in the main context up to one after which a handler run started: what they
did is within `ws`, the rest of `t` waits, and the line is masked. -/
structure Splits (ws : List Field) (t : Task) (s u : State) : Prop extends Grows s u where
  inIrq : s.ctl.inIrq = false
  registered : u.fl.handlerSet = true
  splitAt : ∃ got, SplitAt t got s u
  same : ∀ x, x ∉ .mask :: .todo :: ws → x.same s u

theorem Within.splits {task : Task} (h : Within ws s t) (k : Splits ws task t u) (htodo : .todo ∉ ws) :
    Splits ws task s u where
  toGrows := h.toGrows.trans k.toGrows
  inIrq := h.inIrq ▸ k.inIrq
  registered := k.registered
  splitAt := by
    obtain ⟨got, hctl, hfl⟩ := k.splitAt
    have e : t.ctl.main.todo = s.ctl.main.todo := h.same .todo htodo
    exact ⟨got, e ▸ hctl, hfl⟩
  same x hx := x.same_trans h.cfg (h.same x fun hmem => hx (by simp [hmem])) (k.same x hx)

/-- A handler run that starts splits the step; nothing else of the state is another. -/
theorem splits_takeInterrupt (t : Task) (got : List Val) (hirq : s.ctl.inIrq = false) (hset : s.fl.handlerSet = true)
    {b : Bus} (hb : b.trace = s.bus.trace) :
    Splits ws t s (suspendAs (.resume t got) (takeInterrupt { s with bus := b })) where
  cfg := rfl
  log := List.prefix_refl _
  trace := by simp [takeInterrupt, suspendAs, hb]
  handlerSet h := h
  qh h := h
  prom := rfl
  bitcnt h := h
  inIrq := hirq
  registered := hset
  splitAt := ⟨got, rfl, rfl, rfl⟩
  same x hx := by
    have hmask : x ≠ .mask := fun h => hx (h ▸ .head _)
    have htodo : x ≠ .todo := fun h => hx (h ▸ .tail _ (.head _))
    cases x <;> simp_all [Field.same, takeInterrupt, suspendAs, NicOnly]

/-- A run writes what its parts write, unless a handler run splits it. -/
theorem run_writes {c : Params} {p : Prog} (h : Writes c ws p) (htodo : .todo ∉ ws) (t : Task) (got : List Val)
    (hs : s.cfg = c) : Within (.todo :: ws) s (p.run t got s) ∨ Splits ws t s (p.run t got s) := by
  induction p generalizing s got with
  | done => exact .inl within_refl
  | act f k ih =>
    obtain ⟨hf, hk⟩ := h
    rw [run_act]
    split
    · exact .inl ((hf s hs).elim (·.mono (List.subset_cons_self _ _)) And.right)
    · rename_i hlast
      have hfirst : Within ws s (f s).2 := (hf s hs).resolve_right fun h => hlast h.1
      cases hirq : (f s).2.ctl.inIrq with
      | true =>
        rw [deliver_of_quiet (quiet_of_inIrq hirq)]
        simp only [hirq, Bool.not_true, Bool.and_false, Bool.false_eq_true, if_false]
        exact (ih _ (hk _) _ (hfirst.cfg.trans hs)).imp (hfirst.mono (List.subset_cons_self _ _)).trans
          (hfirst.splits · htodo)
      | false =>
        rcases deliver_writes hirq with ⟨hnot, hd⟩ | ⟨hset, b, hb, e⟩
        · simp only [hnot, Bool.false_and, Bool.false_eq_true, if_false]
          have hnext : Within ws s (deliver (f s).2) := hfirst.trans (hd.mono (List.nil_subset _))
          exact (ih _ (hk _) _ (hnext.cfg.trans hs)).imp (hnext.mono (List.subset_cons_self _ _)).trans
            (hnext.splits · htodo)
        · rw [e]
          exact .inr (hfirst.splits (splits_takeInterrupt t _ hirq hset hb) htodo)

/-- All parts one after another write what each of them does. -/
theorem exec_writes {c : Params} {p : Prog} (h : Writes c ws p) (hs : s.cfg = c) :
    Within (.todo :: ws) s (p.exec s) := by
  induction p generalizing s with
  | done => exact within_refl
  | act f k ih =>
    obtain ⟨hf, hk⟩ := h
    have hfirst : Within (.todo :: ws) s (f s).2 :=
      (hf s hs).elim (·.mono (List.subset_cons_self _ _)) And.right
    exact hfirst.trans (ih _ (hk _) (hfirst.cfg.trans hs))

end

theorem todo_notMem_instrWrites (i : Instr) : .todo ∉ instrWrites i := by
  intro h
  cases i <;> repeat' cases ‹List.Mem Field.todo _›

/-- What an instruction that goes on has done: its own writes, or those of the parts before a split. -/
theorem exec_instr_writes {i : Instr} {s t : State} (e : exec i s = .next t) :
    Within (.todo :: instrWrites i) s t ∨ Splits (instrWrites i) (.op i) s t := by
  obtain ⟨rs, hexec⟩ := exec_eq_operate i s
  obtain ⟨-, rfl⟩ := guarded_next.1 (hexec.symm.trans e)
  exact run_writes (writes_allParts s.cfg i) (todo_notMem_instrWrites i) (.op i) [] rfl

/-! ## Which instructions have a field among those they write -/

section
variable {i : Instr}

theorem isoRound_of_count (h : .count ∈ instrWrites i) : ∃ f, i = .isoRound f := by
  cases i
  case isoRound f => exact ⟨f, rfl⟩
  all_goals repeat' cases ‹List.Mem Field.count _›

theorem addsEntry_of_fresh (h : .fresh ∈ instrWrites i) : addsEntry i = true := by
  cases i
  case isoRound | recLogdev | recCompat | recIoport | recMem | recMem32 | tagLogdev | tagCompat | tagIoport | tagMem |
    tagMem32 => rfl
  all_goals repeat' cases ‹List.Mem Field.fresh _›

theorem queues_of_q (h : .q ∈ instrWrites i) :
    i ∈ [Instr.qDeq, .qWait, .rxPayload, .rxFrame] ∨ ∃ f, i = .qEnq f := by
  cases i
  case qEnq f => exact .inr ⟨f, rfl⟩
  case qDeq | qWait | rxPayload | rxFrame => simp
  all_goals repeat' cases ‹List.Mem Field.q _›

theorem dequeues_of_taken (h : .taken ∈ instrWrites i) : i ∈ [Instr.qDeq, .qWait] := by
  cases i
  case qDeq | qWait => simp
  all_goals repeat' cases ‹List.Mem Field.taken _›

theorem guards_of_ifl (h : .ifl ∈ instrWrites i) :
    i ∈ [Instr.neLbclr, .rxPayload, .rxFrame, .qWait] ∨ (∃ op : QueueOp, i = op.instr) ∨ ∃ body, i = .qGuard body := by
  cases i
  case qEnq f => exact .inr (.inl ⟨.enq f, rfl⟩)
  case qDeq => exact .inr (.inl ⟨.deq, rfl⟩)
  case qSize => exact .inr (.inl ⟨.size, rfl⟩)
  case qGuard body => exact .inr (.inr ⟨body, rfl⟩)
  case neLbclr | rxPayload | rxFrame | qWait => simp
  all_goals repeat' cases ‹List.Mem Field.ifl _›

theorem keySend_of_key (h : .key ∈ instrWrites i) : i = .keySend := by
  cases i
  case keySend => rfl
  all_goals repeat' cases ‹List.Mem Field.key _›

theorem binds_of_driver (h : .driver ∈ instrWrites i) : i ∈ [Instr.neBind, .neInit] := by
  cases i
  case neBind | neInit => simp
  all_goals repeat' cases ‹List.Mem Field.driver _›

theorem neHook_of_handler (h : .handler ∈ instrWrites i) : i = .neHook := by
  cases i
  case neHook => rfl
  all_goals repeat' cases ‹List.Mem Field.handler _›

theorem neHook_of_mask (h : .mask ∈ instrWrites i) : i = .neHook := by
  cases i
  case neHook => rfl
  all_goals repeat' cases ‹List.Mem Field.mask _›

theorem initialises_of_phase (h : .phase ∈ instrWrites i) :
    i ∈ [Instr.neReset, .neBasicinit, .neMac, .neRing, .neStart, .neHook, .neLbclr, .neInit] := by
  cases i
  case neReset | neBasicinit | neMac | neRing | neStart | neHook | neLbclr | neInit => simp
  all_goals repeat' cases ‹List.Mem Field.phase _›

theorem setsRdp_of_rdp (h : .rdp ∈ instrWrites i) : (∃ p, i = .pnpSetrdp p) ∨ ∃ v, i = .pnpRegSetRdData v := by
  cases i
  case pnpSetrdp p => exact .inl ⟨p, rfl⟩
  case pnpRegSetRdData v => exact .inr ⟨v, rfl⟩
  all_goals repeat' cases ‹List.Mem Field.rdp _›

theorem neProm_of_prom (h : .prom ∈ instrWrites i) : i = .neProm := by
  cases i
  case neProm => rfl
  all_goals repeat' cases ‹List.Mem Field.prom _›

theorem advances_of_nextPkt (h : .nextPkt ∈ instrWrites i) : i ∈ [Instr.neRing, .rxAdvance, .rxFrame] := by
  cases i
  case neRing | rxAdvance | rxFrame => simp
  all_goals repeat' cases ‹List.Mem Field.nextPkt _›

theorem allocates_of_heap (h : .heap ∈ instrWrites i) : i ∈ [Instr.rxAlloc, .rxDrop, .rxFrame] := by
  cases i
  case rxAlloc | rxDrop | rxFrame => simp
  all_goals repeat' cases ‹List.Mem Field.heap _›

end

/-! ## `IF` after a guard inside an operation (45 R280) -/

section
variable {s t : State}

/-- Of the fields that no boundary changes, an instruction changes those that it writes. -/
theorem mem_instrWrites_of_changed {i : Instr} (e : exec i s = .next t) {x : Field} (hmask : x ≠ .mask)
    (htodo : x ≠ .todo) (hx : ¬ x.same s t) : x ∈ instrWrites i := by
  by_contra hmem
  rcases exec_instr_writes e with h | h
  · exact hx (h.same x (by simp [htodo, hmem]))
  · exact hx (h.same x (by simp [hmask, htodo, hmem]))

@[simp] theorem deliver_ifl (s : State) : (deliver s).fl.ifl = s.fl.ifl := by
  rcases deliver_cases s with ⟨-, b, e, -⟩ | ⟨b, e, -⟩ <;> rw [e]; rfl

theorem exec_ifl {c : Params} {ws : List Field} {p : Prog} (h : Writes c ws p) (hif : .ifl ∉ ws) (hs : s.cfg = c) :
    (p.exec s).fl.ifl = s.fl.ifl := (exec_writes h hs).same .ifl (by simp [hif])

theorem queueEffect_ifl (op : QueueOp) (s : State) : (queueEffect op s).fl.ifl = s.fl.ifl := by
  rw [(conserves_queueEffect op s).rest]

theorem writes_retry {c : Params} : Writes c [] retry := by
  simp only [retry, writes_test, writes_done, and_true]
  exact writes_push (by simp)

theorem qWait_ifl (e : exec .qWait s = .next t) : t.fl.ifl = s.fl.ifl := by
  obtain ⟨hreqs, -⟩ := guarded_next.1 e
  have hmain : s.ctl.inIrq = false := by simpa [Req.holds] using hreqs .mainContext (by simp)
  have hif : s.fl.ifl = true := hreqs .ifOn (by simp)
  rw [exec_qWait hmain hif] at e
  obtain rfl := Host.Outcome.next.inj e
  have hdeq : (deliver (dequeueBody s)).fl.ifl = s.fl.ifl := (deliver_ifl _).trans (queueEffect_ifl .deq s)
  split
  · exact hdeq
  · rcases run_writes (s := deliver (dequeueBody s)) writes_retry (by simp) (.op .qWait) [.unit, .unit, .bool true] rfl
      with h | h
    · exact (h.same .ifl (by simp)).trans hdeq
    · exact (h.same .ifl (by simp)).trans hdeq

theorem neLbclr_ifl (e : exec .neLbclr s = .next t) : t.fl.ifl = s.fl.ifl := by
  obtain ⟨hreqs, -⟩ := guarded_next.1 e
  have hmain : s.ctl.inIrq = false := by simpa [Req.holds] using hreqs .mainContext (by simp)
  obtain ⟨v, got, u, hports, hexec, -⟩ := exec_neLbclr hmain (hreqs .bound (by simp))
  obtain rfl := Host.Outcome.next.inj (hexec.symm.trans e)
  have hu : u.fl.ifl = s.fl.ifl := by rw [hports]
  have hdeliver : (deliver (onPage .p0 u)).fl.ifl = s.fl.ifl := (deliver_ifl _).trans hu
  split
  · exact hdeliver
  · exact hdeliver

/-- A receive operation is never split. -/
theorem exec_eq_of_rx {i : Instr} {rs : List Req} {p : Params → Prog}
    (hp : ∀ c, Keeps (fun u => u.ctl.inIrq = true) (p c)) (e : operate (.op i) (rxReqs ++ rs) p s = .next t) :
    t = (p s.cfg).exec s := by
  obtain ⟨hreqs, rfl⟩ := guarded_next.1 e
  exact run_eq_exec (quietRun_of_inIrq (hp _) (hreqs .irqContext (by simp [rxReqs]))) _ _

theorem rxPayloadOp_ifl (c : Params) (s : State) : ((rxPayloadOp c).exec s).fl.ifl = s.fl.ifl := by
  obtain ⟨e, b, -, hread, -⟩ := readFilledFr_cases s
  obtain ⟨bytes, es, t, -, hports, heq⟩ := exec_readPayload c (readFilledFr s).1.length.toNat
    (fun bytes => enqueue (fun _ => completeFrame (readFilledFr s).1 bytes) <| .upd (setFr none) .done)
    (readFilledFr s).2
  have hif : t.fl.ifl = s.fl.ifl := by rw [hports, hread]
  simp only [rxPayloadOp, rxPayload, exec_frameRec]
  rw [heq]
  exact hif

theorem rxPayload_ifl (e : exec .rxPayload s = .next t) : t.fl.ifl = s.fl.ifl :=
  exec_eq_of_rx (i := .rxPayload) keepsIrq_rxPayloadOp e ▸ rxPayloadOp_ifl s.cfg s

/-! An iteration, part by part (44 R270). -/

variable {c : Params}

theorem within_rxPayloadOp (hs : s.cfg = c) : Within [.q, .todo, .heap] s ((rxPayloadOp c).exec s) := by
  have hwrites : Within [.todo, .q, .ifl] s ((rxPayloadOp c).exec s) :=
    exec_writes (writes_rxPayload (by simp) (by simp) writes_done) hs
  refine (hwrites.mono (ws := [.ifl, .q, .todo, .heap]) ?_).of_cons (rxPayloadOp_ifl c s)
  simp

theorem within_frameRead (hs : s.cfg = c) : Within [.q, .todo, .heap] s (frameRead c s) := by
  have haddr : Within [.q, .todo, .heap] s ((rxAddrOp c).exec s) :=
    (exec_writes (writes_rxAddr writes_done) hs).mono (vs := [.todo]) (by simp)
  have hcfg : ((rxAddrOp c).exec s).cfg = c := haddr.cfg.trans hs
  unfold frameRead
  split
  · exact haddr.trans (within_rxPayloadOp hcfg)
  · exact haddr.trans <|
      (exec_writes (writes_rxDrop (by simp) writes_done) hcfg).mono (vs := [.todo, .heap]) (by simp)

theorem within_frameHandled (hs : s.cfg = c) : Within [.q, .todo, .heap] s (frameHandled c s) := by
  have halloc : Within [.q, .todo, .heap] s ((rxAllocOp c).exec s) :=
    (exec_writes (writes_rxAlloc (by simp) fun _ => writes_done) hs).mono (vs := [.todo, .heap]) (by simp)
  unfold frameHandled
  split
  · exact within_logFailure _
  · split
    · exact halloc.trans (within_frameRead (halloc.cfg.trans hs))
    · exact halloc

theorem rxFrame_ifl (e : exec .rxFrame s = .next t) : t.fl.ifl = s.fl.ifl := by
  obtain rfl := exec_eq_of_rx (i := .rxFrame) (fun c => keepsIrq_rxFrame c keeps_done) e
  have hhdr : Within [.todo] s ((rxHdrOp s.cfg).exec s) := exec_writes (writes_rxHdr.2 writes_done) rfl
  have hhandled := within_frameHandled hhdr.cfg
  have hadvance : ((rxAdvanceOp s.cfg).exec (frameHandled s.cfg ((rxHdrOp s.cfg).exec s))).fl.ifl =
      (frameHandled s.cfg ((rxHdrOp s.cfg).exec s)).fl.ifl :=
    exec_ifl ((writes_rxAdvance (ws := [.nextPkt]) (by simp)).2 writes_done) (by simp) (hhandled.cfg.trans hhdr.cfg)
  have hrun : (rxFrameOp s.cfg).exec s = (rxAdvanceOp s.cfg).exec (frameHandled s.cfg ((rxHdrOp s.cfg).exec s)) :=
    exec_rxFrame_chain s.cfg .done s
  exact hrun ▸ hadvance.trans ((hhandled.same .ifl (by simp)).trans (hhdr.same .ifl (by simp)))

/-- An operation that guards a part of itself leaves `IF` as it was; only `Q.GUARD` has its body still to come. -/
theorem exec_instr_ifl {i : Instr} (e : exec i s = .next t) (hguard : ∀ body, i ≠ .qGuard body) :
    t.fl.ifl = s.fl.ifl := by
  by_contra hchanged
  rcases guards_of_ifl (mem_instrWrites_of_changed (x := .ifl) e nofun nofun hchanged) with hi | ⟨op, rfl⟩ | ⟨body, rfl⟩
  · simp only [List.mem_cons, List.not_mem_nil, or_false] at hi
    rcases hi with rfl | rfl | rfl | rfl
    · exact hchanged (neLbclr_ifl e)
    · exact hchanged (rxPayload_ifl e)
    · exact hchanged (rxFrame_ifl e)
    · exact hchanged (qWait_ifl e)
  · rw [exec_queueOp] at e
    obtain rfl := Host.Outcome.next.inj e
    exact hchanged (queueEffect_ifl op s)
  · exact hguard body rfl

end

/-- Settles O54: what an instruction does is within the fields that it writes, up to a handler run that splits it. -/
theorem onlyNamedOps : Obligations.OnlyNamedOps := by
  intro i s t e
  have changed {x : Field} (hmask : x ≠ .mask) (htodo : x ≠ .todo) (hx : ¬ x.same s t) : x ∈ instrWrites i :=
    mem_instrWrites_of_changed e hmask htodo hx
  have hgrows : Grows s t := (exec_instr_writes e).elim (·.toGrows) (·.toGrows)
  obtain ⟨l, hlog⟩ := hgrows.log
  obtain ⟨es, htrace⟩ := hgrows.trace
  refine ⟨fun h => isoRound_of_count (changed nofun nofun h), fun h => addsEntry_of_fresh (changed nofun nofun h),
    fun h => queues_of_q (changed nofun nofun h), fun h => dequeues_of_taken (changed nofun nofun h), fun h => ?_,
    fun h => keySend_of_key (changed nofun nofun h),
    fun h => binds_of_driver (changed nofun nofun fun hsame => h hsame.1),
    fun h => neHook_of_handler (changed nofun nofun h), fun hirq => ?_, fun hirq => ?_, hgrows.cfg,
    fun h => initialises_of_phase (changed nofun nofun h),
    fun h => setsRdp_of_rdp (changed nofun nofun fun hsame => h.elim (· hsame.1) (· hsame.2)),
    fun h => neProm_of_prom (changed nofun nofun h), fun h => advances_of_nextPkt (changed nofun nofun h),
    fun h => allocates_of_heap (changed nofun nofun h), ⟨l, hlog.symm⟩, ⟨es, htrace.symm⟩⟩
  · by_contra hno
    exact h (exec_instr_ifl e fun body hi => hno ⟨body, hi⟩)
  · rcases exec_instr_writes e with h | h
    · refine ⟨h.halted, fun hmask => neHook_of_mask ?_⟩
      by_contra hmem
      exact hmask (h.same .mask (by simp [hmem]))
    · obtain ⟨got, hctl, -⟩ := h.splitAt
      rw [h.inIrq, hctl] at hirq
      exact Bool.noConfusion hirq
  · rcases exec_instr_writes e with h | h
    · exact absurd h.inIrq hirq
    · obtain ⟨got, -, hmasked, hhalted⟩ := h.splitAt
      exact ⟨h.inIrq, hmasked, hhalted⟩

/-! ## The handler (60 R302, 44 R272) -/

section
variable {i : Instr} {s t : State}

theorem memoryReqs_eq (s : State) : ∃ rs, memoryReqs s = .mainContext :: rs := by
  unfold memoryReqs
  split <;> exact ⟨_, rfl⟩

theorem memoryRecordReqs_eq (k : RecKind) (len : Half) (s : State) :
    ∃ rs, memoryRecordReqs k len s = .mainContext :: rs := by
  unfold memoryRecordReqs
  split <;> exact ⟨_, rfl⟩

/-- What is of the main context alone asks for that context first. -/
theorem mainContext_of_exec (h : isMainOnly i = true) (e : exec i s = .next t) : s.ctl.inIrq = false := by
  have hreqs : ∃ rs, exec i s = operate (.op i) (.mainContext :: rs) (fun c => allParts c i) s := by
    cases i
    case lfsrShift | sampleOne | sampleZero | sampleNocard | nePage | neCmd | neBnryWr | neCurrWr | neRsar | neRbcr |
      neRdmaRead | neFifoRd16 | neDmaStop | neRegWr | neBnryRd | neCurrRd | neRegRd | neFifoRd8 | cmdStop | cmdStart |
      cmdRread | rxIrq | rxPending | rxHdr | rxRunt | rxAlloc | rxAddr | rxClassify | rxPayload | rxDrop | rxAdvance |
      rxFrame | rxAck | qGuard | qEnq | qDeq | qSize => exact Bool.noConfusion h
    case recMem | recMem32 =>
      obtain ⟨rs, hrs⟩ := memoryReqs_eq s
      exact ⟨rs, congrArg (operate _ · _ s) hrs⟩
    case tagMem len =>
      obtain ⟨rs, hrs⟩ := memoryRecordReqs_eq .mem len s
      exact ⟨rs, congrArg (operate _ · _ s) hrs⟩
    case tagMem32 len =>
      obtain ⟨rs, hrs⟩ := memoryRecordReqs_eq .mem32 len s
      exact ⟨rs, congrArg (operate _ · _ s) hrs⟩
    all_goals exact ⟨_, rfl⟩
  obtain ⟨rs, hexec⟩ := hreqs
  obtain ⟨hholds, -⟩ := guarded_next.1 (hexec.symm.trans e)
  simpa [Req.holds] using hholds .mainContext (.head _)

/-- What an instruction that may run in the handler writes. -/
theorem instrWrites_handler (h : isMainOnly i = false) :
    instrWrites i ⊆ [.nextPkt, .ifl, .q, .taken, .heap, .ports] := by
  cases i
  case lfsrShift | sampleOne | sampleZero | sampleNocard | nePage | neCmd | neBnryWr | neCurrWr | neRsar | neRbcr |
    neRdmaRead | neFifoRd16 | neDmaStop | neBnryRd | neCurrRd | neFifoRd8 | cmdStop | cmdStart | cmdRread | rxIrq |
    rxPending | rxHdr | rxRunt | rxAddr | rxClassify | rxAck => exact List.nil_subset _
  case neRegWr | neRegRd =>
    show [Field.ports] ⊆ _
    simp
  case rxAlloc | rxDrop =>
    show [Field.heap] ⊆ _
    simp
  case rxAdvance =>
    show [Field.nextPkt] ⊆ _
    simp
  case rxPayload | qEnq =>
    show [Field.q, .ifl] ⊆ _
    simp
  case rxFrame =>
    show [Field.q, .ifl, .heap, .nextPkt] ⊆ _
    simp
  case qDeq =>
    show [Field.q, .taken, .ifl] ⊆ _
    simp
  case qSize | qGuard =>
    show [Field.ifl] ⊆ _
    simp
  all_goals exact Bool.noConfusion h

/-- In the interrupt context nothing is split, and what is of the main context alone does not run. -/
theorem exec_handler_writes (hirq : s.ctl.inIrq = true) (e : exec i s = .next t) :
    Within [.todo, .nextPkt, .ifl, .q, .taken, .heap, .ports] s t := by
  have hmain : isMainOnly i = false := by
    cases hmain : isMainOnly i with
    | false => rfl
    | true => exact absurd (hirq.symm.trans (mainContext_of_exec hmain e)) Bool.noConfusion
  rcases exec_instr_writes e with h | h
  · exact h.mono (List.cons_subset_cons _ (instrWrites_handler hmain))
  · exact absurd (hirq.symm.trans h.inIrq) Bool.noConfusion

theorem ports_notMem_receive (h : isReceive i = true) : .ports ∉ instrWrites i := by
  intro hmem
  cases i
  case rxIrq | rxPending | rxHdr | rxRunt | rxAlloc | rxAddr | rxClassify | rxPayload | rxDrop | rxAdvance | rxFrame |
    rxAck => repeat' cases ‹List.Mem Field.ports _›
  all_goals exact Bool.noConfusion h

end

theorem isoRegs_eq {a b : IsoRegs} (hlfsr : b.lfsr = a.lfsr) (hid : b.id = a.id ∧ b.bitcnt = a.bitcnt)
    (hrdp : b.rdp = a.rdp) (hkey : b.keySent = a.keySent) : b = a := by
  cases a
  cases b
  simp_all

/-- Settles O51: what may run in the handler writes none of these fields, and no receive operation writes `ports`. -/
theorem mainSuspended : Obligations.MainSuspended := by
  refine ⟨fun i s t hirq e => ?_, fun i s t hreceive e => ?_⟩
  · have h := exec_handler_writes hirq e
    have hiso : t.iso = s.iso := isoRegs_eq (h.same .lfsr (by simp)) (h.same .ident (by simp)) (h.same .rdp (by simp)).1
      (h.same .key (by simp))
    exact ⟨h.inIrq.trans hirq, h.main hirq, h.cfg, hiso, h.same .decoder (by simp), h.same .table (by simp),
      h.same .fresh (by simp), h.same .phase (by simp), h.same .mask (by simp), h.same .handler (by simp), h.halted⟩
  · have hports : NicOnly s t := by
      by_contra hchanged
      exact ports_notMem_receive hreceive (mem_instrWrites_of_changed (x := .ports) e nofun nofun hchanged)
    exact hports.2

end Sys2Proof.Machine

/-! PROOFS. The control invariant: what each part keeps, and what the parts to come of a step rely on, so that the rest
that a handler run leaves behind has it (O57). -/

namespace Sys2Proof.Machine

/-! ## The control invariant and what keeps it -/

/-- The three invariants that every step keeps together. -/
structure ControlInv (s : State) : Prop where
  contexts : ContextInv s
  registers : RegisterInv s
  splits : SplitInv s

/-- No register that the invariant speaks of is written. -/
structure Neutral (ws : List Field) : Prop where
  rdp : .rdp ∉ ws
  driver : .driver ∉ ws
  handler : .handler ∉ ws
  mask : .mask ∉ ws

section
variable {ws : List Field} {s t : State}

theorem neutral_iff : Neutral ws ↔ .rdp ∉ ws ∧ .driver ∉ ws ∧ .handler ∉ ws ∧ .mask ∉ ws :=
  ⟨fun h => ⟨h.rdp, h.driver, h.handler, h.mask⟩, fun ⟨hrdp, hdriver, hhandler, hmask⟩ =>
    ⟨hrdp, hdriver, hhandler, hmask⟩⟩

theorem splitInv_mono (h : SplitInv s) (hset : s.fl.handlerSet = true → t.fl.handlerSet = true)
    (hqh : s.nic.qh = .queueQ → t.nic.qh = .queueQ)
    (hres : ∀ task got, Task.resume task got ∈ t.ctl.main.todo → Task.resume task got ∈ s.ctl.main.todo) :
    SplitInv t := by
  intro task got hmem
  obtain ⟨hhandler, hrdp, hbyte, hbind⟩ := h task got (hres task got hmem)
  exact ⟨hset hhandler, hrdp, hbyte, fun hi hn => hqh (hbind hi hn)⟩

theorem Within.splitInv (h : Within ws s t) (hs : SplitInv s) : SplitInv t :=
  splitInv_mono hs h.handlerSet h.qh h.resumes

theorem Within.contextInv (h : Within ws s t) (hmask : .mask ∉ ws) (hs : ContextInv s) : ContextInv t := by
  have hline : t.fl.lineMasked = s.fl.lineMasked := h.same .mask hmask
  obtain ⟨hrun, hopen⟩ := hs
  refine ⟨fun hirq => ?_, fun hno => h.handlerSet (hopen (hline.symm.trans hno))⟩
  obtain ⟨hmasked, hhalted, hset⟩ := hrun (h.inIrq.symm.trans hirq)
  exact ⟨hline.trans hmasked, h.halted.trans hhalted, h.handlerSet hset⟩

theorem Within.registerInv (h : Within ws s t) (hrdp : .rdp ∉ ws) (hdriver : .driver ∉ ws) (hs : RegisterInv s) :
    RegisterInv t := by
  obtain ⟨hp, hbit, hprom, hqh⟩ := hs
  obtain ⟨hport, hwritten⟩ := h.same .rdp hrdp
  obtain ⟨hbound, hhandle⟩ := h.same .driver hdriver
  exact ⟨fun hw => hport ▸ hp (hwritten.symm.trans hw), h.bitcnt hbit, h.prom.trans hprom,
    fun hb => hhandle ▸ hqh (hbound.symm.trans hb)⟩

theorem Within.controlInv (h : Within ws s t) (hws : Neutral ws) (hs : ControlInv s) : ControlInv t :=
  ⟨h.contextInv hws.mask hs.contexts, h.registerInv hws.rdp hws.driver hs.registers, h.splitInv hs.splits⟩

theorem controlInv_setRdpReg {p : Half} (hp : isCandidate p = true) (h : ControlInv s) :
    ControlInv (setRdpReg p s) := by
  have hwithin : Within [.rdp] s (setRdpReg p s) := within_setRdpReg p (by simp)
  obtain ⟨-, hbit, hprom, hqh⟩ := h.registers
  exact ⟨hwithin.contextInv (by simp) h.contexts, ⟨fun _ => hp, hbit, hprom, hqh⟩, hwithin.splitInv h.splits⟩

theorem controlInv_setQh (h : ControlInv s) : ControlInv (setQh s) := by
  have hwithin : Within [.driver] s (setQh s) := within_setQh (by simp)
  obtain ⟨hp, hbit, hprom, -⟩ := h.registers
  exact ⟨hwithin.contextInv (by simp) h.contexts, ⟨hp, hbit, hprom, fun _ => rfl⟩, hwithin.splitInv h.splits⟩

theorem controlInv_setBound (hqh : s.nic.qh = .queueQ) (h : ControlInv s) : ControlInv (setBound s) := by
  have hwithin : Within [.driver] s (setBound s) := within_setBound (by simp)
  obtain ⟨hp, hbit, hprom, -⟩ := h.registers
  exact ⟨hwithin.contextInv (by simp) h.contexts, ⟨hp, hbit, hprom, fun _ => hqh⟩, hwithin.splitInv h.splits⟩

theorem controlInv_setHandler (h : ControlInv s) : ControlInv (setHandler s) := by
  have hwithin : Within [.handler] s (setHandler s) := within_setHandler (by simp)
  exact ⟨hwithin.contextInv (by simp) h.contexts, h.registers, hwithin.splitInv h.splits⟩

/-- The line is unmasked only for a handler that is registered, and in the main context (43 R239, 60 R302). -/
theorem controlInv_unmask (hmain : s.ctl.inIrq = false) (hset : s.fl.handlerSet = true) (h : ControlInv s) :
    ControlInv (setLineMasked false s) := by
  have hwithin : Within [.mask] s (setLineMasked false s) := within_setLineMasked false (by simp)
  have hcontexts : ContextInv (setLineMasked false s) :=
    ⟨fun hirq => absurd (hmain.symm.trans hirq) Bool.noConfusion, fun _ => hset⟩
  exact ⟨hcontexts, h.registers, hwithin.splitInv h.splits⟩

/-- Only the main context halts (60 R313). -/
theorem controlInv_halt (hmain : s.ctl.inIrq = false) (h : ControlInv s) : ControlInv (setHalted true s) := by
  have hcontexts : ContextInv (setHalted true s) :=
    ⟨fun hirq => absurd (hmain.symm.trans hirq) Bool.noConfusion, h.contexts.2⟩
  exact ⟨hcontexts, h.registers, h.splits⟩

theorem controlInv_bus {b : Bus} (h : ControlInv s) : ControlInv { s with bus := b } :=
  ⟨h.contexts, h.registers, h.splits⟩

theorem controlInv_takeInterrupt (hset : s.fl.handlerSet = true) (h : ControlInv s) : ControlInv (takeInterrupt s) :=
  ⟨⟨fun _ => ⟨rfl, rfl, hset⟩, fun _ => hset⟩, h.registers, h.splits⟩

theorem controlInv_deliver (h : ControlInv s) : ControlInv (deliver s) := by
  rcases deliver_cases s with ⟨hd, b, e, -⟩ | ⟨b, e, -⟩ <;> rw [e]
  · exact controlInv_takeInterrupt ((deliverable_iff s).1 hd).1 (controlInv_bus h)
  · exact controlInv_bus h

/-- The handler of the run that returns is registered, so its line may be unmasked (60 R303, R306). -/
theorem controlInv_return (hirq : s.ctl.inIrq = true) (h : ControlInv s) : ControlInv (returnFromInterrupt s) := by
  obtain ⟨-, -, hset⟩ := h.contexts.1 hirq
  exact ⟨⟨fun hno => absurd hno Bool.false_ne_true, fun _ => hset⟩, h.registers, h.splits⟩

theorem controlInv_boundary (h : ControlInv s) : ControlInv (boundary s) := by
  rcases boundary_cases s with ⟨hirq, -, e⟩ | ⟨-, e⟩ <;> rw [e]
  · exact controlInv_deliver (controlInv_return hirq h)
  · exact controlInv_deliver h

end

/-! ## What the rest of a step relies on -/

/-- After `n` parts of step `t`: what those still to come rely on (43 R231, R239, 40 R146). -/
structure Progress (t : Task) (n : Nat) (s : State) : Prop where
  hook : t = .op .neHook → s.ctl.inIrq = false ∧ (2 ≤ n → s.fl.handlerSet = true)
  bind : t = .op .neBind ∨ t = .op .neInit → 4 ≤ n → s.nic.qh = .queueQ
  rdp : ∀ p, t = .op (.pnpSetrdp p) → isCandidate p = true
  rdpByte : ∀ v, t = .op (.pnpRegSetRdData v) → isCandidate (rdpOfByte v) = true

/-- The invariant between two parts of step `t`, after `n` of them, under the parameters `c`. -/
structure Between (c : Params) (t : Task) (n : Nat) (s : State) : Prop where
  cfg : s.cfg = c
  inv : ControlInv s
  progress : Progress t n s

/-- Each part, the first of them number `n`, takes what holds before it to what holds after it. -/
def KeepsAt (P : Nat → State → Prop) : Prog → Nat → Prop
  | .done, _ => True
  | .act f k, n => (∀ s, P n s → P (n + 1) (f s).2) ∧ ∀ v, KeepsAt P (k v) (n + 1)

section
variable {c : Params} {t : Task} {p : Prog} {n : Nat} {s u : State}

theorem keepsAt_after {P : Nat → State → Prop} (h : KeepsAt P p n) (vs : List Val) :
    KeepsAt P (p.after vs) (n + vs.length) := by
  induction p generalizing n vs with
  | done => trivial
  | act f k ih =>
    cases vs with
    | nil => exact h
    | cons v vs =>
      rw [List.length_cons, Nat.add_comm vs.length 1, ← Nat.add_assoc]
      exact ih v (h.2 v) vs

/-- A handler run that splits step `t` leaves a rest that has what it relies on. -/
theorem controlInv_split (h : Between c t n s) (hset : s.fl.handlerSet = true) {got : List Val} (hn : got.length = n) :
    ControlInv (suspendAs (.resume t got) (takeInterrupt s)) := by
  obtain ⟨hcontexts, hregisters, hsplits⟩ := controlInv_takeInterrupt hset h.inv
  refine ⟨hcontexts, hregisters, fun task got' hmem => ?_⟩
  rcases List.mem_cons.1 hmem with e | hmem
  · obtain ⟨rfl, rfl⟩ := Task.resume.inj e
    exact ⟨hset, h.progress.rdp, h.progress.rdpByte, fun hbind hgot => h.progress.bind hbind (hn ▸ hgot)⟩
  · exact hsplits task got' hmem

theorem Between.bus (h : Between c t n s) (b : Bus) : Between c t n { s with bus := b } :=
  ⟨h.cfg, controlInv_bus h.inv, ⟨h.progress.hook, h.progress.bind, h.progress.rdp, h.progress.rdpByte⟩⟩

theorem controlInv_run {got : List Val} (hp : KeepsAt (Between c t) p got.length) (h : Between c t got.length s) :
    ControlInv (p.run t got s) := by
  induction p generalizing got s with
  | done => exact h.inv
  | act f k ih =>
    obtain ⟨hf, hk⟩ := hp
    have hpart : Between c t (got.length + 1) (f s).2 := hf s h
    rw [run_act]
    split
    · exact hpart.inv
    · rcases deliver_cases (f s).2 with ⟨hd, b, e, -⟩ | ⟨b, e, -⟩ <;> rw [e]
      · obtain ⟨hset, -, -, hmain⟩ := (deliverable_iff _).1 hd
        rw [hmain]
        exact controlInv_split (hpart.bus b) hset rfl
      · dsimp only
        rw [Bool.and_not_self, if_neg Bool.false_ne_true]
        exact ih _ (hk _) (hpart.bus b)

/-! Each program's parts. -/

/-- A step that writes no register of the invariant has nothing else to rely on. -/
structure Plain (t : Task) : Prop where
  hook : t ≠ .op .neHook
  bind : t ≠ .op .neBind
  init : t ≠ .op .neInit

theorem Progress.of_plain (hs : Progress t n s) (ht : Plain t) (m : Nat) (u : State) : Progress t m u where
  hook e := absurd e ht.hook
  bind e := e.elim (absurd · ht.bind) (absurd · ht.init)
  rdp := hs.rdp
  rdpByte := hs.rdpByte

theorem Within.between {ws : List Field} (h : Within ws s u) (hws : Neutral ws) (ht : Plain t)
    (hs : Between c t n s) : Between c t (n + 1) u :=
  ⟨h.cfg.trans hs.cfg, h.controlInv hws hs.inv, hs.progress.of_plain ht _ _⟩

theorem Neutral.todo {ws : List Field} (h : Neutral ws) : Neutral (.todo :: ws) :=
  ⟨by simp [h.rdp], by simp [h.driver], by simp [h.handler], by simp [h.mask]⟩

theorem plain_of_ne_op (h : ∀ i, t ≠ .op i) : Plain t := ⟨h _, h _, h _⟩

theorem keepsAt_of_writes {ws : List Field} (h : Writes c ws p) (hws : Neutral ws) (ht : Plain t) (n : Nat) :
    KeepsAt (Between c t) p n := by
  induction p generalizing n with
  | done => trivial
  | act f k ih =>
    refine ⟨fun s hs => ?_, fun v => ih v (h.2 v) _⟩
    rcases h.1 s hs.cfg with hpart | ⟨-, hpart⟩
    · exact hpart.between hws ht hs
    · exact hpart.between hws.todo ht hs

theorem keepsAt_cfgWr {reg v : Byte} {k : Prog} (ht : Plain t) (hk : ∀ n, KeepsAt (Between c t) k n) (n : Nat) :
    KeepsAt (Between c t) (.cfgWr reg v k) n := by
  have hport (port : Half) (v : Byte) (s : State) : Within [.ports] s (ioWrite8 port v s) :=
    within_accesses (ioWrite8_ports port v s) (.inl (by simp))
  have hneutral : Neutral [.ports] := by simp [neutral_iff]
  exact ⟨fun s hs => (hport _ _ s).between hneutral ht hs, fun _ =>
    ⟨fun s hs => (hport _ _ s).between hneutral ht hs, fun _ => hk _⟩⟩

/-- The register follows a set-read-port write of a candidate (40 R146). -/
theorem keepsAt_setRdp {reg v : Byte} {q : Half} {k : Prog} (hq : isCandidate q = true) (ht : Plain t)
    (hk : ∀ n, KeepsAt (Between c t) k n) (n : Nat) :
    KeepsAt (Between c t) (.cfgWr reg v <| .upd (setRdpReg q) k) n := by
  refine keepsAt_cfgWr ht (fun m => ?_) n
  exact ⟨fun s hs => ⟨hs.cfg, controlInv_setRdpReg hq hs.inv, hs.progress.of_plain ht _ _⟩, fun _ => hk _⟩

theorem keepsAt_enumAt (k n : Nat) : KeepsAt (Between c (.enumAt k)) (enumAt k c) n := by
  have ht : Plain (.enumAt k) := plain_of_ne_op nofun
  have hphase : Neutral [.phase] := by simp [neutral_iff]
  have hnil : Neutral [] := by simp [neutral_iff]
  unfold enumAt
  split
  · next hk =>
    have hcandidate : isCandidate (candidate k) = true := candidate_eq k ▸ isCandidate_ofNat hk
    exact ⟨fun s hs => (within_setPhase _ (by simp)).between hphase ht hs, fun _ => keepsAt_cfgWr ht
      (keepsAt_setRdp hcandidate ht (keepsAt_of_writes (writes_push (by simp)) hnil ht)) _⟩
  · exact keepsAt_of_writes (ws := [.phase]) (by simp) hphase ht n

/-! Binding: `QH` is written before the binding counts (43 R231). -/

theorem progress_bind (ht : t = .op .neBind ∨ t = .op .neInit) :
    Progress t n s ↔ (4 ≤ n → s.nic.qh = .queueQ) := by
  refine ⟨fun h => h.bind ht, fun h => ?_⟩
  rcases ht with rfl | rfl <;> exact ⟨nofun, fun _ => h, nofun, nofun⟩

theorem Within.between_bind {ws : List Field} (h : Within ws s u) (hws : Neutral ws)
    (ht : t = .op .neBind ∨ t = .op .neInit) (hn : 4 ≤ n + 1 → 4 ≤ n) (hs : Between c t n s) : Between c t (n + 1) u :=
  ⟨h.cfg.trans hs.cfg, h.controlInv hws hs.inv,
    (progress_bind ht).2 fun hm => h.qh ((progress_bind ht).1 hs.progress (hn hm))⟩

theorem keepsAt_bind (ht : t = .op .neBind ∨ t = .op .neInit) {f : State → State} {onNone : Prog}
    (hf : ∀ s, Within [.todo] s (f s)) (hnone : KeepsAt (Between c t) onNone 2) :
    KeepsAt (Between c t) (bind (.last f) onNone) 0 := by
  have hnil : Neutral [] := by simp [neutral_iff]
  have hports : Neutral [.ports] := by simp [neutral_iff]
  refine ⟨fun s hs => within_bindBase.between_bind hnil ht (by omega) hs, fun v => ?_⟩
  dsimp only
  split
  · exact ⟨fun s hs => (within_raise _).between_bind hnil ht (by omega) hs, fun _ => hnone⟩
  · refine ⟨fun s hs => (within_setIobase _ (by simp)).between_bind hports ht (by omega) hs, fun _ =>
      ⟨fun s hs => (within_setPage none).between_bind hnil ht (by omega) hs, fun _ =>
        ⟨fun s hs => ⟨hs.cfg, controlInv_setQh hs.inv, (progress_bind ht).2 fun _ => rfl⟩, fun _ =>
          ⟨fun s hs => ?_, fun _ => ⟨fun s hs => (hf s).between_bind hnil.todo ht (by omega) hs, fun _ => trivial⟩⟩⟩⟩⟩
    have hqh : s.nic.qh = .queueQ := (progress_bind ht).1 hs.progress (by omega)
    exact ⟨hs.cfg, controlInv_setBound hqh hs.inv, (progress_bind ht).2 fun _ => hqh⟩

theorem keepsAt_neBind : KeepsAt (Between c (.op .neBind)) (neBind c) 0 :=
  keepsAt_bind (.inl rfl) (fun _ => within_setResult _) trivial

theorem keepsAt_neInit : KeepsAt (Between c (.op .neInit)) (neInit c) 0 := by
  have hphase : Neutral [.phase] := by simp [neutral_iff]
  exact keepsAt_bind (.inr rfl) (fun _ => within_push (by simp [initTail]) (by simp))
    ⟨fun s hs => (within_setPhase .noNic (by simp)).between_bind hphase (.inr rfl) (by omega) hs, fun _ => trivial⟩

/-! The hook: the handler is registered before its line is unmasked (43 R239). -/

theorem progress_hook :
    Progress (.op .neHook) n s ↔ s.ctl.inIrq = false ∧ (2 ≤ n → s.fl.handlerSet = true) :=
  ⟨fun h => h.hook rfl, fun h => ⟨fun _ => h, nofun, nofun, nofun⟩⟩

theorem Within.between_hook {ws : List Field} (h : Within ws s u) (hws : Neutral ws) (hn : 2 ≤ n + 1 → 2 ≤ n)
    (hs : Between c (.op .neHook) n s) : Between c (.op .neHook) (n + 1) u := by
  obtain ⟨hmain, hset⟩ := progress_hook.1 hs.progress
  exact ⟨h.cfg.trans hs.cfg, h.controlInv hws hs.inv,
    progress_hook.2 ⟨h.inIrq.trans hmain, fun hm => h.handlerSet (hset (hn hm))⟩⟩

theorem keepsAt_neHook : KeepsAt (Between c (.op .neHook)) (neHook c) 0 := by
  have hports : Neutral [.ports] := by simp [neutral_iff]
  have hphase : Neutral [.phase] := by simp [neutral_iff]
  refine ⟨fun s hs => (within_request _ (by simp)).between_hook hports (by omega) hs, fun _ =>
    ⟨fun s hs => ?_, fun _ => ⟨fun s hs => (within_request _ (by simp)).between_hook hports (by omega) hs, fun _ =>
      ⟨fun s hs => ?_, fun _ => ⟨fun s hs => (within_setPhase _ (by simp)).between_hook hphase (by omega) hs,
        fun _ => trivial⟩⟩⟩⟩⟩
  · exact ⟨hs.cfg, controlInv_setHandler hs.inv, progress_hook.2 ⟨(progress_hook.1 hs.progress).1, fun _ => rfl⟩⟩
  · obtain ⟨hmain, hset⟩ := progress_hook.1 hs.progress
    exact ⟨hs.cfg, controlInv_unmask hmain (hset (by omega)) hs.inv,
      progress_hook.2 ⟨hmain, fun _ => hset (by omega)⟩⟩

/-! Every program. -/

theorem keepsAt_allParts (i : Instr) (hrdp : ∀ p, i = .pnpSetrdp p → isCandidate p = true)
    (hbyte : ∀ v, i = .pnpRegSetRdData v → isCandidate (rdpOfByte v) = true) :
    KeepsAt (Between c (.op i)) (allParts c i) 0 := by
  by_cases hport : .rdp ∈ instrWrites i
  · rcases setsRdp_of_rdp hport with ⟨p, rfl⟩ | ⟨v, rfl⟩
    · have ht : Plain (.op (.pnpSetrdp p)) := ⟨nofun, nofun, nofun⟩
      exact keepsAt_setRdp (k := .done) (hrdp p rfl) ht (fun _ => trivial) 0
    · have ht : Plain (.op (.pnpRegSetRdData v)) := ⟨nofun, nofun, nofun⟩
      exact keepsAt_setRdp (k := .done) (hbyte v rfl) ht (fun _ => trivial) 0
  by_cases hdriver : .driver ∈ instrWrites i
  · have hbind : i = .neBind ∨ i = .neInit := by simpa using binds_of_driver hdriver
    rcases hbind with rfl | rfl
    · exact keepsAt_neBind
    · exact keepsAt_neInit
  by_cases hhandler : .handler ∈ instrWrites i
  · obtain rfl := neHook_of_handler hhandler
    exact keepsAt_neHook
  have hhook : i ≠ .neHook := fun e => hhandler (e ▸ .head _)
  have hplain : Plain (.op i) :=
    ⟨fun e => hhook (Task.op.inj e), fun e => hdriver (Task.op.inj e ▸ .head _),
      fun e => hdriver (Task.op.inj e ▸ .head _)⟩
  exact keepsAt_of_writes (writes_allParts c i) ⟨hport, hdriver, hhandler, fun h => hhook (neHook_of_mask h)⟩ hplain 0

theorem keepsAt_taskProg (t : Task) (hrdp : ∀ p, t = .op (.pnpSetrdp p) → isCandidate p = true)
    (hbyte : ∀ v, t = .op (.pnpRegSetRdData v) → isCandidate (rdpOfByte v) = true) :
    KeepsAt (Between c t) (taskProg c t) 0 := by
  have hwrites := writes_taskProg c t
  cases t with
  | op i =>
    show KeepsAt (Between c (.op i)) (instrProg c i) 0
    rcases instrProg_eq c i with h | h <;> rw [h]
    · exact keepsAt_allParts i (fun p hp => hrdp p (congrArg _ hp)) fun v hv => hbyte v (congrArg _ hv)
    · trivial
  | enumAt k => exact keepsAt_enumAt k 0
  | bodyRest use n got =>
    have hneutral : Neutral (bodyWrites use) := by
      cases use with
      | plain => simp [neutral_iff, bodyWrites]
      | record r => cases r <;> simp [neutral_iff, bodyWrites, recordWrites]
    refine keepsAt_of_writes hwrites hneutral (plain_of_ne_op ?_) 0
    nofun
  | _ =>
    refine keepsAt_of_writes hwrites (by simp [neutral_iff, taskWrites]) (plain_of_ne_op ?_) 0
    nofun

/-! ## From a run to a step -/

theorem controlInv_operate {rs : List Req} {p : Params → Prog} (hp : KeepsAt (Between s.cfg t) (p s.cfg) 0)
    (h : ControlInv s) (hprogress : Progress t 0 s) (e : operate t rs p s = .next u) : ControlInv u := by
  obtain ⟨-, rfl⟩ := guarded_next.1 e
  exact controlInv_run (got := []) hp ⟨rfl, h, hprogress⟩

theorem controlInv_exec {i : Instr} (h : ControlInv s) (e : exec i s = .next u) : ControlInv u := by
  have hrdp (p : Half) (hp : i = .pnpSetrdp p) : isCandidate p = true := by
    subst hp
    exact (guarded_next.1 e).1 (.candidate p) (by simp)
  have hbyte (v : Byte) (hv : i = .pnpRegSetRdData v) : isCandidate (rdpOfByte v) = true := by
    subst hv
    exact (guarded_next.1 e).1 (.candidate (rdpOfByte v)) (by simp)
  have hprogress : Progress (.op i) 0 s :=
    ⟨fun hi => ⟨mainContext_of_exec (Task.op.inj hi ▸ rfl) e, nofun⟩, fun _ => nofun,
      fun p hp => hrdp p (Task.op.inj hp), fun v hv => hbyte v (Task.op.inj hv)⟩
  obtain ⟨rs, hexec⟩ := exec_eq_operate i s
  exact controlInv_operate (keepsAt_allParts i hrdp hbyte) h hprogress (hexec.symm.trans e)

/-- What the invariant says of the rest of a split step. -/
def RestInv (t : Task) (got : List Val) (s : State) : Prop :=
  s.fl.handlerSet = true ∧ (∀ p, t = .op (.pnpSetrdp p) → isCandidate p = true) ∧
    (∀ v, t = .op (.pnpRegSetRdData v) → isCandidate (rdpOfByte v) = true) ∧
      (t = .op .neBind ∨ t = .op .neInit → 4 ≤ got.length → s.nic.qh = .queueQ)

theorem controlInv_resume {got : List Val} (h : ControlInv s) (hrest : RestInv t got s)
    (e : runTask (.resume t got) s = .next u) : ControlInv u := by
  obtain ⟨hreqs, rfl⟩ := guarded_next.1 e
  have hmain : s.ctl.inIrq = false := by simpa [Req.holds] using hreqs .mainContext (by simp)
  obtain ⟨hset, hrdp, hbyte, hbind⟩ := hrest
  have hparts := keepsAt_after (keepsAt_taskProg (c := s.cfg) t hrdp hbyte) got.reverse
  rw [List.length_reverse, Nat.zero_add] at hparts
  exact controlInv_run hparts ⟨rfl, h, ⟨fun _ => ⟨hmain, fun _ => hset⟩, hbind, hrdp, hbyte⟩⟩

theorem within_decodeDispatch (s : State) : Within [.todo] s (decodeDispatch s) := by
  unfold decodeDispatch
  split
  · exact within_push (by simp) (by simp)
  · exact within_refl

theorem within_decodeNext (s : State) : Within [.todo, .table] s (decodeNext s) := by
  unfold decodeNext
  split
  · exact within_refl
  · exact (within_modCrd _ _ (by simp)).trans (within_setResult _)
  · exact within_raise _
  · exact within_push (by simp [decodeTurn]) (by simp)

theorem controlInv_plain {rs : List Req} {p : Params → Prog} (ht : ∀ i, t ≠ .op i)
    (hp : KeepsAt (Between s.cfg t) (p s.cfg) 0) (h : ControlInv s) (e : operate t rs p s = .next u) : ControlInv u :=
  controlInv_operate hp h
    ⟨(absurd · (ht _)), fun hi => hi.elim (absurd · (ht _)) (absurd · (ht _)), fun _ => (absurd · (ht _)),
      fun _ => (absurd · (ht _))⟩ e

theorem controlInv_runTask (h : ControlInv s)
    (hrest : ∀ r got, t = .resume r got → s.ctl.inIrq = false → RestInv r got s) (e : runTask t s = .next u) :
    ControlInv u := by
  have hparts := keepsAt_taskProg (c := s.cfg) t
  cases t with
  | line l =>
    simp only [runTask] at e
    split at e
    · exact controlInv_exec h e
    · exact nomatch e
  | op i => exact controlInv_exec h e
  | setPhase p =>
    obtain rfl := Host.Outcome.next.inj e
    exact (within_setPhase (ws := [.phase]) p (by simp)).controlInv (by simp [neutral_iff]) h
  | answer r =>
    obtain rfl := Host.Outcome.next.inj e
    exact (within_setResult (ws := []) r).controlInv (by simp [neutral_iff]) h
  | restoreIf b =>
    obtain rfl := Host.Outcome.next.inj e
    exact (within_setIf (ws := [.ifl]) b (by simp)).controlInv (by simp [neutral_iff]) h
  | decodeDispatch =>
    obtain ⟨-, rfl⟩ := guarded_next.1 e
    exact (within_decodeDispatch s).controlInv (by simp [neutral_iff]) h
  | decodeNext =>
    obtain ⟨-, rfl⟩ := guarded_next.1 e
    exact (within_decodeNext s).controlInv (by simp [neutral_iff]) h
  | waitHalt =>
    obtain ⟨hreqs, rfl⟩ := guarded_next.1 e
    exact controlInv_halt (by simpa [Req.holds] using hreqs .mainContext (by simp)) h
  | resume r got =>
    obtain ⟨hreqs, -⟩ := guarded_next.1 e
    exact controlInv_resume h (hrest r got rfl (by simpa [Req.holds] using hreqs .mainContext (by simp))) e
  | bodyRest use n got =>
    refine controlInv_plain (p := fun c => readBody use c n got) ?_ (hparts ?_ ?_) h e <;> nofun
  | _ => refine controlInv_plain ?_ (hparts ?_ ?_) h e <;> nofun

/-! The agenda of the running context. -/

/-- A step idles or runs the first task of the agenda, and a boundary follows. -/
theorem step_agenda (e : step s = .next u) :
    u = boundary (idle s) ∨
      ∃ task ts w, s.agenda = task :: ts ∧ runTask task (setTodo ts s) = .next w ∧ u = boundary w := by
  unfold step stepOnce afterStep at e
  split at e
  · split at e
    · exact .inl (Host.Outcome.next.inj e).symm
    · next hagenda =>
      split at e
      · exact .inr ⟨_, _, _, hagenda, ‹_›, (Host.Outcome.next.inj e).symm⟩
      · exact nomatch e
      · exact nomatch e
  · exact nomatch e

theorem resume_notMem_mainSequence (p : Phase) (task : Task) (got : List Val) : .resume task got ∉ mainSequence p := by
  cases p <;> simp [mainSequence, initTail]

/-- The rest of a split step is in the agenda only where the main context has it to do. -/
theorem mem_todo_of_mem_agenda {task : Task} {got : List Val} (hmain : s.ctl.inIrq = false)
    (h : .resume task got ∈ s.agenda) : .resume task got ∈ s.ctl.main.todo := by
  unfold State.agenda at h
  rw [hmain, if_neg Bool.false_ne_true] at h
  split at h
  · exact absurd h List.not_mem_nil
  · split at h
    · exact absurd h (resume_notMem_mainSequence _ _ _)
    · exact h

theorem main_setTodo (ts : List Task) (s : State) :
    (setTodo ts s).ctl.main = if s.ctl.inIrq then s.ctl.main else { s.ctl.main with todo := ts } := by
  cases h : s.ctl.inIrq <;> simp [setTodo, State.setActive, State.active, h]

theorem controlInv_setTodo {task : Task} {ts : List Task} (hagenda : s.agenda = task :: ts) (h : ControlInv s) :
    ControlInv (setTodo ts s) := by
  have hcontexts : ContextInv (setTodo ts s) := by simpa [ContextInv] using h.contexts
  refine ⟨hcontexts, h.registers, splitInv_mono h.splits (fun hs => hs) (fun hs => hs) fun r got hmem => ?_⟩
  rw [main_setTodo] at hmem
  cases hmain : s.ctl.inIrq with
  | true => simpa [hmain] using hmem
  | false =>
    rw [hmain] at hmem
    exact mem_todo_of_mem_agenda hmain (hagenda ▸ List.mem_cons_of_mem _ hmem)

end

/-- Settles O57: each part of each task keeps the invariant and what the parts to come rely on, and where a handler run
splits the task, the rest has that to go on from. -/
theorem stepKeepsControl : Obligations.StepKeepsControl := by
  intro s t hcontexts hregisters hsplits e
  have h : ControlInv s := ⟨hcontexts, hregisters, hsplits⟩
  have hboundary : ControlInv t := by
    rcases step_agenda e with rfl | ⟨task, ts, u, hagenda, hu, rfl⟩
    · exact controlInv_boundary (controlInv_bus h)
    · refine controlInv_boundary (controlInv_runTask (controlInv_setTodo hagenda h) (fun r got hr hmain => ?_) hu)
      rw [setTodo_inIrq] at hmain
      exact hsplits r got (mem_todo_of_mem_agenda hmain (hagenda ▸ hr ▸ .head _))
  exact ⟨hboundary.contexts, hboundary.registers, hboundary.splits⟩

end Sys2Proof.Machine

/-! PROOFS. Interrupts: delivery, return and the splits of three operations on dictated answers (O49), and the waking
of a halted main context (O50). -/

namespace Sys2Proof.Machine

/-! ## Delivery and return (60 R301 to R303) -/

section
variable {s t : State}

theorem deliverable_of_open (h : Open s) : s.deliverable = true := by
  obtain ⟨hmain, hset, hmask, hif, -⟩ := h
  exact (deliverable_iff s).2 ⟨hset, hmask, hif, hmain⟩

/-- That a run may start is no precondition of any instruction. -/
theorem exec_next_iff_masked (i : Instr) (s : State) :
    (∃ t, exec i s = .next t) ↔ ∃ t, exec i { s with fl := { s.fl with lineMasked := true } } = .next t := by
  have hreqs : ∃ rs, exec i s = operate (.op i) rs (fun c => allParts c i) s ∧
      exec i { s with fl := { s.fl with lineMasked := true } } =
        operate (.op i) rs (fun c => allParts c i) { s with fl := { s.fl with lineMasked := true } } := by
    cases i <;> exact ⟨_, rfl, rfl⟩
  have hholds (r : Req) : r.holds { s with fl := { s.fl with lineMasked := true } } = r.holds s := by
    cases r <;> rfl
  obtain ⟨rs, hexec, hmasked⟩ := hreqs
  rw [hexec, hmasked]
  unfold operate
  simp only [guarded_next, exists_and_left, exists_eq, and_true, hholds]

end

/-! ## A split on dictated answers (log 10, 11) -/

/-- The answers of the request line before `rest` were taken at boundaries. -/
def heard (rest : List Bool) (s : State) : State := { s with bus := { s.bus with lineAnswers := rest } }

section
variable {t : Task} {got : List Val} {f : State → Val × State} {k : Val → Prog} {p : Prog} {s u : State} {v : Val}
  {rest : List Bool} {ds : List Nat}

/-- A part, not the last, and a boundary at which the line is not asserted. -/
theorem run_act_unasserted (hf : f s = (v, u)) (hk : k v = p) (hmore : p.isDone = false) (hopen : Open u)
    (hline : u.bus.lineAnswers = false :: rest) : (Prog.act f k).run t got s = p.run t (v :: got) (heard rest u) := by
  have hmain : (heard rest u).ctl.inIrq = false := hopen.1
  have hdeliver : deliver u = heard rest u := deliver_unasserted (deliverable_of_open hopen) hline
  rw [run_act, hf, hk, hmore, if_neg Bool.false_ne_true, hdeliver, hmain, Bool.false_and,
    if_neg Bool.false_ne_true]

/-- A part, not the last, and a boundary at which a handler run starts. -/
theorem run_act_taken (hf : f s = (v, u)) (hmore : (k v).isDone = false) (hopen : Open u)
    (hline : u.bus.lineAnswers = true :: rest) (hdelays : u.bus.delays = 0 :: ds) :
    (Prog.act f k).run t got s = suspendAs (.resume t (v :: got))
      (takeInterrupt { u with bus := { u.bus with lineAnswers := rest, delays := ds } }) := by
  obtain ⟨hmain, -, -, -, hcount⟩ := id hopen
  rw [run_act, hf, hmore, if_neg Bool.false_ne_true, deliver_taken (deliverable_of_open hopen) hline hcount hdelays,
    hmain, takeInterrupt_ctl, Bool.not_false, Bool.and_true, if_pos rfl]

end

/-- A handler run that begins splits the step. -/
theorem splitAt_takeInterrupt (t : Task) (got : List Val) (s : State) :
    SplitAt t got s (suspendAs (.resume t got) (takeInterrupt s)) := ⟨rfl, rfl, rfl⟩

/-! ### `NE.CURR.RD` (43 R220, R223) -/

/-- `NE.CURR.RD` after the command byte `v` was read: page 1 is selected and the register read. -/
def currSelected (c : Params) (v : Byte) : Prog :=
  .neWr c.num.neCr (pageCommand c.num v .p1) <| .upd (setPage (some .p1)) <| neReadOp c.num.neCurr

section
variable {s u : State} {a : Half} {as : List Half} {rest : List Bool} {ds : List Nat} {page : Option RegPage}

theorem ioRead8_answered (port : Half) (h : s.bus.answers = a :: as) :
    ∃ b : Bus, ioRead8 port s = (a.setWidth 8, { s with bus := b }) ∧
      b.trace = s.bus.trace ++ [.rd8 port (a.setWidth 8)] ∧ b.lineAnswers = s.bus.lineAnswers ∧
      b.delays = s.bus.delays ∧ b.countdown = s.bus.countdown := by
  obtain ⟨hv, -⟩ := ioRead8_dictated port s h
  have hports := ioRead8_ports port s
  rw [hv] at hports
  exact ⟨_, Prod.ext hv hports, rfl, rfl, rfl, rfl⟩

/-- On another page the command byte is read first. -/
theorem neCurrRd_unselected (c : Params) (h : page ≠ some .p1) :
    (if page = some .p1 then neReadOp c.num.neCurr else .neRd c.num.neCr (currSelected c)) =
      .neRd c.num.neCr (currSelected c) := if_neg h

theorem exec_neCurrRd_split (hbound : s.nic.bound = true) (hopen : Open s) (hpage : s.nic.page ≠ some .p1)
    (hanswers : s.bus.answers = a :: as) (hline : s.bus.lineAnswers = false :: true :: rest)
    (hdelays : s.bus.delays = 0 :: ds) :
    ∃ t, exec .neCurrRd s = .next t ∧ SplitAt (.op .neCurrRd) [.byte (a.setWidth 8), .page s.nic.page] s t ∧
      t.nic = s.nic ∧
      t.bus.trace = s.bus.trace ++ [.rd8 (s.nic.iobase + s.cfg.num.neCr) (a.setWidth 8)] := by
  have hexec : exec .neCurrRd s = .next ((neCurrRd s.cfg).run (.op .neCurrRd) [] s) :=
    guarded_run (List.forall_mem_singleton.2 hbound)
  have hpart : (neCurrRd s.cfg).run (.op .neCurrRd) [] s =
      (Prog.neRd s.cfg.num.neCr (currSelected s.cfg)).run (.op .neCurrRd) [.page s.nic.page]
        (heard (true :: rest) s) :=
    run_act_unasserted (f := fun s => (.page s.nic.page, s)) rfl (neCurrRd_unselected s.cfg hpage) rfl hopen hline
  obtain ⟨b, hread, htrace, hlines, hds, hcount⟩ :=
    ioRead8_answered (s := heard (true :: rest) s) (s.nic.iobase + s.cfg.num.neCr) hanswers
  have hopen' : Open { s with bus := b } := by
    obtain ⟨hmain, hset, hmask, hif, hnone⟩ := hopen
    exact ⟨hmain, hset, hmask, hif, hcount.trans hnone⟩
  have hsplit : (Prog.neRd s.cfg.num.neCr (currSelected s.cfg)).run (.op .neCurrRd) [.page s.nic.page]
      (heard (true :: rest) s) = suspendAs (.resume (.op .neCurrRd) [.byte (a.setWidth 8), .page s.nic.page])
        (takeInterrupt { s with bus := { b with lineAnswers := rest, delays := ds } }) :=
    run_act_taken (u := { s with bus := b }) (congrArg (fun r => (Val.byte r.1, r.2)) hread) rfl hopen' hlines
      (hds.trans hdelays)
  exact ⟨_, hexec.trans (congrArg _ (hpart.trans hsplit)), splitAt_takeInterrupt _ _ _, rfl, htrace⟩

/-- After a handler run the rest selects the page with the command byte it had read before (43 R220). -/
theorem runTask_neCurrRd_rest (v : Byte) (hpage : page ≠ some .p1) (hmain : u.ctl.inIrq = false) (hquiet : Quiet u) :
    ∃ x w, PortsOnly [neWr u u.cfg.num.neCr (pageCommand u.cfg.num v .p1),
        .rd8 (u.nic.iobase + u.cfg.num.neCurr) x] u w ∧
      runTask (.resume (.op .neCurrRd) [.byte v, .page page]) u = .next (setResult (.byte x) (onPage .p1 w)) := by
  have hrest : (taskProg u.cfg (.op .neCurrRd)).after [.page page, .byte v] = currSelected u.cfg v := by
    have hpart : (taskProg u.cfg (.op .neCurrRd)).after [.page page, .byte v] =
        (Prog.neRd u.cfg.num.neCr (currSelected u.cfg)).after [.byte v] :=
      congrArg (Prog.after · [.byte v]) (neCurrRd_unselected u.cfg hpage)
    exact hpart.trans rfl
  have hsteady : Steady (currSelected u.cfg v) :=
    steady_neWr <| steady_upd (fun _ => ⟨rfl, rfl, rfl⟩) <| steady_neRd fun _ => steady_last (calm_setResult _)
  refine ⟨_, _, portsOnly_neRd (ioWrite8_ports _ _ u) u.cfg.num.neCurr, ?_⟩
  rw [runTask_resume hmain]
  show Host.Outcome.next (((taskProg u.cfg (.op .neCurrRd)).after [.page page, .byte v]).run _ _ u) = _
  rw [hrest, run_eq_exec (quietRun_of_steady hsteady hquiet)]
  rfl

end

/-! ### Records of a logical device in use (41 R177, R178) -/

section
variable {s u : State} {d : Nat} {j : Fin 4}

/-- The main context is in the middle of the stream of `DEV[d]`, `DEV[d].crd.ld[j]` is the current logical device, and
a handler run may start: the answers of the request line and the wait that are dictated start it at the third boundary
(log 11). -/
structure OpenRecord (d : Nat) (j : Fin 4) (s : State) : Prop where
  opened : Open s
  key : s.iso.keySent = true
  curld : s.wr.curld = true
  card : s.dec.card = some d
  index : s.dec.curld = .index j
  there : LdThere s d j
  line : ∃ rest, s.bus.lineAnswers = false :: false :: true :: rest
  delay : ∃ ds, s.bus.delays = 0 :: ds

/-- The record's reads of `CURLD` and of the logical device pass two boundaries; a handler run that starts after the
update that follows leaves the rest of the record to be done. -/
theorem run_attach_split {F : Fin 4 → LogicalDevice → Prog} {g : State → State} {k : Prog} (h : OpenRecord d j s)
    (hF : F j (s.ld d j) = .upd g k) (hk : k.isDone = false) (hcalm : (g s).fl = s.fl ∧ (g s).ctl = s.ctl)
    (hbus : ∀ b, g { s with bus := b } = { g s with bus := b }) (t : Task) :
    ∃ b, (attach fun j => cardLd j (F j)).run t [] s =
      suspendAs (.resume t [.unit, .ld (s.ld d j), .curld (.index j)]) (takeInterrupt { g s with bus := b }) := by
  have hcard : s.card = d := card_eq h.card
  obtain ⟨rest, hline⟩ := h.line
  obtain ⟨ds, hdelays⟩ := h.delay
  have hcurld : (attach fun j => cardLd j (F j)).run t [] s =
      (cardLd j (F j)).run t [.curld (.index j)] (heard (false :: true :: rest) s) :=
    run_act_unasserted (congrArg (fun x => (Val.curld x, s)) h.index) rfl rfl h.opened hline
  have hread : readLd d j (heard (false :: true :: rest) s) = (s.ld d j, heard (false :: true :: rest) s) :=
    readLd_there (s := heard (false :: true :: rest) s) h.there
  have hpart : (fun s : State => (Val.ld (readLd s.card j s).1, (readLd s.card j s).2))
      (heard (false :: true :: rest) s) = (.ld (s.ld d j), heard (false :: true :: rest) s) := by
    show (Val.ld (readLd s.card j _).1, (readLd s.card j _).2) = _
    rw [hcard, hread]
  have hld : (cardLd j (F j)).run t [.curld (.index j)] (heard (false :: true :: rest) s) =
      (Prog.upd g k).run t [.ld (s.ld d j), .curld (.index j)] (heard (true :: rest) s) :=
    run_act_unasserted (u := heard (false :: true :: rest) s) hpart hF rfl h.opened rfl
  have hupd : (Prog.upd g k).run t [.ld (s.ld d j), .curld (.index j)] (heard (true :: rest) s) =
      suspendAs (.resume t [.unit, .ld (s.ld d j), .curld (.index j)])
        (takeInterrupt { g s with bus := { s.bus with lineAnswers := rest, delays := ds } }) := by
    have hopen : Open { g s with bus := { s.bus with lineAnswers := true :: rest } } := by
      simpa [Open, hcalm.1, hcalm.2] using h.opened
    exact run_act_taken (k := fun _ => k) (congrArg (Prod.mk Val.unit) (hbus _)) hk hopen rfl hdelays
  exact ⟨_, hcurld.trans (hld.trans hupd)⟩

theorem exec_record_split {i : Instr} {p : Params → Prog} {F : Fin 4 → LogicalDevice → Prog} {g : State → State}
    {k : Prog} (hi : exec i s = operate (.op i) attachReqs p s) (hp : p s.cfg = attach fun j => cardLd j (F j))
    (h : OpenRecord d j s) (hF : F j (s.ld d j) = .upd g k) (hk : k.isDone = false)
    (hcalm : (g s).fl = s.fl ∧ (g s).ctl = s.ctl) (hbus : ∀ b, g { s with bus := b } = { g s with bus := b }) :
    ∃ b, exec i s = .next (suspendAs (.resume (.op i) [.unit, .ld (s.ld d j), .curld (.index j)])
      (takeInterrupt { g s with bus := b })) := by
  have hreqs : ∀ r ∈ attachReqs, r.holds s = true := by
    simp [attachReqs, Req.holds, State.isWritten, h.opened.1, h.key, h.card, h.curld]
  obtain ⟨b, hrun⟩ := run_attach_split h hF hk hcalm hbus (.op i)
  refine ⟨b, hi.trans ?_⟩
  unfold operate
  rw [guarded_run hreqs, hp, hrun]

/-- What is left of the record after the update. -/
theorem runTask_record_rest {i : Instr} {F : Fin 4 → LogicalDevice → Prog} {g : State → State} {k : Prog}
    {l : LogicalDevice} (hp : instrProg u.cfg i = attach fun j => cardLd j (F j)) (hF : F j l = .upd g k)
    (hmain : u.ctl.inIrq = false) :
    runTask (.resume (.op i) [.unit, .ld l, .curld (.index j)]) u =
      .next (k.run (.op i) [.unit, .ld l, .curld (.index j)] u) := by
  have hrest : (instrProg u.cfg i).after [.curld (.index j), .ld l, .unit] = k := by
    rw [hp]
    have hpart : (F j l).after [.unit] = k := by
      rw [hF]
      exact after_nil k
    exact hpart
  rw [runTask_resume hmain]
  show Host.Outcome.next (((instrProg u.cfg i).after [.curld (.index j), .ld l, .unit]).run _ _ u) = _
  rw [hrest]

/-- `REC.DMA` split between its mask and its information byte (41 R177). -/
theorem recDma_split (body : List Byte) (h : OpenRecord d j s)
    (hnone : (s.ld d j).dma = none) :
    ∃ got t v, exec (.recDma body) s = .next t ∧ SplitAt (.op (.recDma body)) got s t ∧
      t.dev = (modLd d j (fun l => { l with dma := some ⟨field body 0, v⟩ }) s).dev ∧
      ∀ u : State, u.ctl.inIrq = false → u.dec.card = some d → runTask (.resume (.op (.recDma body)) got) u =
        .next (modLd d j (fun l => { l with dma := l.dma.map fun r => { r with info := field body 1 } }) u) := by
  have hcard : s.card = d := card_eq h.card
  have hfree : ¬ (s.ld d j).dma.isSome = true := by simp [hnone]
  obtain ⟨b, hexec⟩ := exec_record_split (i := .recDma body) (p := recDma body) rfl rfl h (if_neg hfree) rfl
    ⟨rfl, rfl⟩ fun _ => rfl
  refine ⟨_, _, 0, hexec, splitAt_takeInterrupt _ _ _, ?_, fun u hmain hu => ?_⟩
  · rw [← hcard]
    rfl
  · rw [runTask_record_rest (i := .recDma body) rfl (if_neg hfree) hmain, ← card_eq hu]
    rfl

/-- The step of `IOCFG` after a range record (41 R178). -/
def stepIocfg (c : Params) (s : State) : State := setIocfg (s.dec.iocfg + c.cfgStep) s

/-- With the first field of the new range written, the rest of the record writes the others, counts the range and
steps `IOCFG` (41 R178). -/
theorem exec_newIo_rest (body : List Byte) (j : Nat) {k : Prog} {u : State}
    (hk : newIo body j (.last (stepIocfg u.cfg)) = fill (.io { IoRange.empty with info := field body 0 }) k)
    (hfresh : u.fresh = some (.io { IoRange.empty with info := field body 0 }))
    (hlen : (u.ld u.card j).io.length < 8) :
    k.exec u = modLd u.card j (fun l => { l with io := l.io ++ [⟨field body 0, field16 body 1, field16 body 3,
        field body 5, field body 6, u.dec.iocfg, none⟩] })
      { u with fresh := none, dec := { u.dec with iocfg := u.dec.iocfg + u.cfg.cfgStep } } := by
  have hfilled : setFresh (.io { IoRange.empty with info := field body 0 }) u = u := by rw [setFresh, ← hfresh]
  have hwhole : (newIo body j (.last (stepIocfg u.cfg))).exec u = k.exec u := by
    rw [hk, fill, exec_upd, hfilled]
  rw [← hwhole, exec_newIo]
  have hentry (d : IoRange) : modLd u.card j (fun l => { l with io := addEntry Config.ioCap l.io d }) u =
      modLd u.card j (fun l => { l with io := l.io ++ [d] }) u :=
    modLd_congr (congrArg (fun io => { u.ld u.card j with io := io }) (addEntry_of_lt hlen d))
  rw [hentry]
  rfl

/-- `REC.IOPORT` split after the first field of its new range (41 R178). -/
theorem recIoport_split (body : List Byte) (h : OpenRecord d j s)
    (hroom : (s.ld d j).io.length < 8) :
    ∃ got t, exec (.recIoport body) s = .next t ∧ SplitAt (.op (.recIoport body)) got s t ∧ t.dev = s.dev ∧
      t.dec = s.dec ∧
      ∀ u : State, u.ctl.inIrq = false → Quiet u → u.dec.card = some d → u.fresh = t.fresh →
        (u.ld d j).io.length < 8 →
        runTask (.resume (.op (.recIoport body)) got) u =
          .next (modLd d j (fun l => { l with io := l.io ++ [⟨field body 0, field16 body 1, field16 body 3,
              field body 5, field body 6, u.dec.iocfg, none⟩] })
            { u with fresh := none, dec := { u.dec with iocfg := u.dec.iocfg + u.cfg.cfgStep } }) := by
  have hfree : ¬ Config.ioCap ≤ (s.ld d j).io.length := Nat.not_le.2 hroom
  obtain ⟨b, hexec⟩ := exec_record_split (i := .recIoport body) (p := recIoport body) rfl rfl h (if_neg hfree)
    rfl ⟨rfl, rfl⟩ fun _ => rfl
  refine ⟨_, _, hexec, splitAt_takeInterrupt _ _ _, rfl, rfl, fun u hmain hquiet hu hfresh hlen => ?_⟩
  rw [runTask_record_rest (i := .recIoport body) rfl (if_neg hfree) hmain]
  have hsteady := (steady_newIo body j (k := .last (stepIocfg u.cfg)) (steady_last fun _ => ⟨rfl, rfl, rfl⟩)).2 .unit
  rw [← card_eq hu] at hlen ⊢
  exact congrArg _ ((run_eq_exec (quietRun_of_steady hsteady hquiet) _ _).trans
    (exec_newIo_rest body j rfl hfresh hlen))

end

/-- Settles O49: a boundary delivers or changes the environment only; a run that starts in the middle of an operation
splits it, and what is left is the program after the parts that were made. -/
theorem interrupts : Obligations.Interrupts := by
  refine ⟨fun s h => ?_, fun s => ?_, fun s hset hmask hif hmain hcount => ⟨fun rest hline => ?_,
    fun rest ds hline hdelays => ?_⟩, fun s hirq htodo => ?_, fun s h => ?_, fun i s t hmain e hirq => ?_,
    exec_next_iff_masked, fun a as rest ds s hbound hopen hpage hanswers hline hdelays => ?_,
    fun d j body rest ds s hopen hkey hcurld hcard hindex hthere hline hdelays => ⟨fun hnone => ?_, fun hroom => ?_⟩⟩
  · exact deliver_of_quiet (Bool.eq_false_of_not_eq_true fun hd => h ((deliverable_iff s).1 hd))
  · rcases deliver_cases s with ⟨-, b, e, hagents, htrace⟩ | ⟨b, e, hagents, htrace⟩
    · exact ⟨b, htrace, hagents, .inr e⟩
    · exact ⟨b, htrace, hagents, .inl e⟩
  · exact deliver_unasserted ((deliverable_iff s).2 ⟨hset, hmask, hif, hmain⟩) hline
  · rw [deliver_taken ((deliverable_iff s).2 ⟨hset, hmask, hif, hmain⟩) hline hcount hdelays]
    rfl
  · rcases boundary_cases s with ⟨-, -, e⟩ | ⟨hno, -⟩
    · exact e
    · exact absurd ⟨hirq, htodo⟩ hno
  · rcases boundary_cases s with ⟨hirq, htodo, -⟩ | ⟨-, e⟩
    · have hmore : s.ctl.irq.todo ≠ [] := h.resolve_left fun hmain => Bool.noConfusion (hirq.symm.trans hmain)
      exact absurd htodo hmore
    · exact e
  · rcases exec_instr_writes e with h | h
    · exact absurd (hirq.symm.trans (h.inIrq.trans hmain)) Bool.noConfusion
    · exact h.splitAt
  · obtain ⟨t, hexec, hsplit, hnic, htrace⟩ := exec_neCurrRd_split hbound hopen hpage hanswers hline hdelays
    refine ⟨_, t, hexec, hsplit, hnic, htrace, fun u hmain hquiet hcfg => ?_⟩
    obtain ⟨x, w, hports, hrun⟩ := runTask_neCurrRd_rest (a.setWidth 8) hpage hmain hquiet
    exact ⟨x, w, hcfg ▸ hports, hrun⟩
  · obtain ⟨got, t, v, hexec, hsplit, hdev, hrest⟩ :=
      recDma_split body ⟨hopen, hkey, hcurld, hcard, hindex, hthere, ⟨rest, hline⟩, ⟨ds, hdelays⟩⟩ hnone
    exact ⟨got, t, v, hexec, hsplit, hdev, fun u ⟨hmain, _, _, hu⟩ => hrest u hmain hu⟩
  · obtain ⟨got, t, hexec, hsplit, hdev, hdec, hrest⟩ :=
      recIoport_split body ⟨hopen, hkey, hcurld, hcard, hindex, hthere, ⟨rest, hline⟩, ⟨ds, hdelays⟩⟩ hroom
    exact ⟨got, t, hexec, hsplit, hdev, hdec, fun u ⟨hmain, hquiet, _, hu⟩ => hrest u hmain hquiet hu⟩

/-! ## A halted main context (60 R313) -/

/-- The main context is halted, a handler run may start, the request stands for `n + 1` boundaries, and it is taken at
the last of them (log 11). -/
structure Waiting (n : Nat) (s : State) : Prop where
  ok : s.cfg.ok = true
  halted : s.fl.halted = true
  deliverable : s.deliverable = true
  line : ∃ rest, s.bus.lineAnswers = List.replicate (n + 1) true ++ rest
  wait : s.bus.countdown = some n ∨ s.bus.countdown = none ∧ ∃ ds, s.bus.delays = n :: ds

section
variable {n : Nat} {s : State}

theorem Waiting.idle (h : Waiting n s) : Waiting n (idle s) := ⟨h.ok, h.halted, h.deliverable, h.line, h.wait⟩

/-- A halted main context idles, and the boundary after it delivers. -/
theorem step_of_waiting (h : Waiting n s) : step s = .next (deliver (idle s)) := by
  obtain ⟨-, -, -, hmain⟩ := (deliverable_iff s).1 h.deliverable
  have hagenda : s.agenda = [] := by simp [State.agenda, hmain, h.halted]
  have hboundary : boundary (Machine.idle s) = deliver (Machine.idle s) := by simp [boundary, Machine.idle, hmain]
  simp [step, stepOnce, h.ok, hagenda, hboundary]

/-- The wait that the request still has. -/
theorem wait_eq {b : Bus} (h : b.countdown = some n ∨ b.countdown = none ∧ ∃ ds, b.delays = n :: ds) :
    ∃ b', b.wait = (n, b') ∧ b'.trace = b.trace ∧ b'.lineAnswers = b.lineAnswers := by
  rcases h with hcount | ⟨hcount, ds, hdelays⟩
  · exact ⟨b, by simp [Bus.wait, hcount], rfl, rfl⟩
  · exact ⟨{ b with delays := ds }, by simp [Bus.wait, hcount, hdelays], rfl, rfl⟩

theorem deliver_waiting (h : Waiting (n + 1) s) :
    ∃ b : Bus, deliver s = { s with bus := b } ∧ b.trace = s.bus.trace ∧ Waiting n { s with bus := b } := by
  obtain ⟨rest, hline⟩ := h.line
  obtain ⟨b, hwait, htrace, hanswers⟩ :=
    wait_eq (b := { s.bus with lineAnswers := List.replicate (n + 1) true ++ rest }) h.wait
  refine ⟨{ b with countdown := some n }, ?_, htrace, h.ok, h.halted, h.deliverable, ⟨rest, hanswers⟩, .inl rfl⟩
  simp [deliver, h.deliverable, Bus.line, hline, List.replicate_succ (n := n + 1), hwait]

theorem deliver_waited (h : Waiting 0 s) : ∃ b : Bus, deliver s = takeInterrupt { s with bus := b } := by
  obtain ⟨rest, hline⟩ := h.line
  obtain ⟨b, hwait, -⟩ := wait_eq (b := { s.bus with lineAnswers := rest }) h.wait
  exact ⟨{ b with countdown := none }, by simp [deliver, h.deliverable, Bus.line, hline, hwait]⟩

theorem run_succ_of_step {k : Nat} {t : State} (h : step s = .next t) :
    Host.Core.run core (k + 1) s = Host.Core.run core k t := by
  simp only [Host.Core.run]
  rw [show core.step s = .next t from h]

/-- Before the request is taken nothing but the environment changes. -/
theorem run_waiting {k : Nat} (hk : k ≤ n) (h : Waiting n s) :
    ∃ b : Bus, Host.Core.run core k s = .next { s with bus := b } ∧ b.trace = s.bus.trace := by
  induction k generalizing n s with
  | zero => exact ⟨s.bus, rfl, rfl⟩
  | succ k ih =>
    obtain ⟨m, rfl⟩ : ∃ m, n = m + 1 := ⟨n - 1, by omega⟩
    obtain ⟨b, hdeliver, htrace, hnext⟩ := deliver_waiting h.idle
    obtain ⟨b', hrun, htrace'⟩ := ih (by omega) hnext
    refine ⟨b', ?_, htrace'.trans htrace⟩
    rw [run_succ_of_step ((step_of_waiting h).trans (congrArg _ hdeliver))]
    exact hrun

theorem run_waited (h : Waiting n s) :
    ∃ b : Bus, Host.Core.run core (n + 1) s = .next (takeInterrupt { s with bus := b }) := by
  induction n generalizing s with
  | zero =>
    obtain ⟨b, hdeliver⟩ := deliver_waited h.idle
    exact ⟨b, run_succ_of_step ((step_of_waiting h).trans (congrArg _ hdeliver))⟩
  | succ n ih =>
    obtain ⟨b, hdeliver, -, hnext⟩ := deliver_waiting h.idle
    obtain ⟨b', hrun⟩ := ih hnext
    exact ⟨b', (run_succ_of_step ((step_of_waiting h).trans (congrArg _ hdeliver))).trans hrun⟩

end

/-- Settles O50, by induction on the boundaries that the request waits: at each a halted main context idles. -/
theorem haltWakes : Obligations.HaltWakes := by
  intro n rest ds s hok hhalted hmain hset hmask hif hcountdown hline hdelays
  have h : Waiting n s := ⟨hok, hhalted, (deliverable_iff s).2 ⟨hset, hmask, hif, hmain⟩, ⟨rest, hline⟩,
    .inr ⟨hcountdown, ds, hdelays⟩⟩
  refine ⟨fun k hk => ?_, ?_⟩
  · obtain ⟨b, hrun, htrace⟩ := run_waiting hk h
    exact ⟨_, hrun, hhalted, rfl, htrace⟩
  · obtain ⟨b, hrun⟩ := run_waited h
    exact ⟨_, hrun, rfl, rfl, rfl, rfl⟩

end Sys2Proof.Machine

/-! PROOFS. The main context's sequence after reset (O5), and the hazards that every operation refuses (O52): what each
kind of instruction asks for first. -/

namespace Sys2Proof.Machine

/-! ## The sequence (70 R323) -/

theorem setTodo_active (s : State) : setTodo s.active.todo s = s := setActive_self s

section
variable {s : State} {i : Instr}

/-- A main context with nothing placed before it runs the operation that its phase's sequence is, in the state it is
in: no step has to be taken off first. -/
theorem step_of_sequence (hok : s.cfg.ok = true) (hmain : s.ctl.inIrq = false) (hruns : s.fl.halted = false)
    (htodo : s.ctl.main.todo = []) (hseq : mainSequence s.phase = [.op i]) : step s = afterStep (exec i s) := by
  have hagenda : s.agenda = [.op i] := by simp [State.agenda, hmain, hruns, htodo, hseq]
  have hactive : s.active.todo = [] := by simp [State.active, hmain, htodo]
  have hsame : setTodo [] s = s := hactive ▸ setTodo_active s
  simp only [step, hok, if_true, stepOnce, hagenda, hsame]
  rfl

theorem step_badParameters (h : s.cfg.ok = false) : step s = .refused .badParameters := by simp [step, h]

end

/-- Settles O5: the sequence of each of these phases is one operation. -/
theorem sequenceFollowsPhase : Obligations.SequenceFollowsPhase := by
  refine ⟨fun s hok hmain hruns htodo => ⟨fun hphase => ?_, fun hphase => ?_, fun hphase => ?_⟩,
    fun s => step_badParameters⟩
  · exact step_of_sequence hok hmain hruns htodo (by rw [hphase]; rfl)
  · exact step_of_sequence hok hmain hruns htodo (by rw [hphase]; rfl)
  · exact step_of_sequence hok hmain hruns htodo (by rcases hphase with hphase | hphase <;> rw [hphase] <;> rfl)

/-! ## What an instruction asks for first (60 R308, 70 R324; 43 and 44, the lines before R220 and R260) -/

/-- The preconditions that come before an instruction's own, by its kind: its context, then the key or the driver, and
for a receive operation the handler. -/
def kindReqs (i : Instr) : List Req :=
  if needsKey i then [.mainContext, .key]
  else if isInitStep i then [.mainContext, .bound]
  else if isMainOnly i then [.mainContext]
  else if isAccessor i then [.bound]
  else if isReceive i then rxReqs
  else []

theorem memoryReqs_eq_key_append (s : State) : ∃ rs, memoryReqs s = [.mainContext, .key] ++ rs := by
  unfold memoryReqs
  split
  · exact ⟨[], rfl⟩
  · exact ⟨[.decoding, .written .curld], rfl⟩

theorem memoryRecordReqs_eq_key_append (k : RecKind) (len : Half) (s : State) :
    ∃ rs, memoryRecordReqs k len s = [.mainContext, .key] ++ rs := by
  unfold memoryRecordReqs
  split
  · exact ⟨_, rfl⟩
  · exact ⟨[], rfl⟩

/-- Every instruction asks first for what its kind does; only a memory record's list of preconditions hangs on the
state. -/
theorem exec_eq_operate_kind (i : Instr) (s : State) :
    ∃ rs, exec i s = operate (.op i) (kindReqs i ++ rs) (fun c => allParts c i) s := by
  cases i
  case recMem | recMem32 =>
    obtain ⟨rs, hrs⟩ := memoryReqs_eq_key_append s
    exact ⟨rs, congrArg (operate _ · _ s) hrs⟩
  case tagMem len =>
    obtain ⟨rs, hrs⟩ := memoryRecordReqs_eq_key_append .mem len s
    exact ⟨rs, congrArg (operate _ · _ s) hrs⟩
  case tagMem32 len =>
    obtain ⟨rs, hrs⟩ := memoryRecordReqs_eq_key_append .mem32 len s
    exact ⟨rs, congrArg (operate _ · _ s) hrs⟩
  all_goals exact ⟨_, rfl⟩

section
variable {i : Instr}

theorem kindReqs_of_needsKey (h : needsKey i = true) : kindReqs i = [.mainContext, .key] := if_pos h

theorem kindReqs_of_isInitStep (h : isInitStep i = true) : kindReqs i = [.mainContext, .bound] := by
  cases i
  case neReset | neBasicinit | neProm | neMac | neRing | neStart | neIrqen | neHook | neLbclr => rfl
  all_goals exact Bool.noConfusion h

theorem kindReqs_of_isMainOnly (h : isMainOnly i = true) : ∃ rs, kindReqs i = .mainContext :: rs := by
  by_cases hkey : needsKey i = true
  · exact ⟨_, kindReqs_of_needsKey hkey⟩
  by_cases hinit : isInitStep i = true
  · exact ⟨_, kindReqs_of_isInitStep hinit⟩
  · exact ⟨[], by simp [kindReqs, hkey, hinit, h]⟩

theorem kindReqs_of_isAccessor (h : isAccessor i = true) : kindReqs i = [.bound] := by
  cases i
  case nePage | neCmd | neBnryWr | neBnryRd | neCurrWr | neCurrRd | neRsar | neRbcr | neRdmaRead | neFifoRd16 |
    neFifoRd8 | neDmaStop | neRegWr | neRegRd | cmdStop | cmdStart | cmdRread => rfl
  all_goals exact Bool.noConfusion h

theorem kindReqs_of_isReceive (h : isReceive i = true) : kindReqs i = rxReqs := by
  cases i
  case rxIrq | rxPending | rxHdr | rxRunt | rxAlloc | rxAddr | rxClassify | rxPayload | rxDrop | rxAdvance | rxFrame |
    rxAck => rfl
  all_goals exact Bool.noConfusion h

/-- Where an instruction's kind asks for `q` after what holds, and `q` does not, it is refused as `q` says. -/
theorem exec_refused {pre post : List Req} {q : Req} {x : Refusal} {s : State} (hkind : kindReqs i = pre ++ q :: post)
    (hpre : ∀ r ∈ pre, r.holds s = true) (hq : q.holds s = false) (hstop : q.stop = .refuse x) :
    exec i s = .refused x := by
  obtain ⟨rs, hexec⟩ := exec_eq_operate_kind i s
  rw [hexec, hkind, List.append_assoc]
  exact operate_refused hpre hq hstop

end

/-- Settles O52: of what an instruction's kind asks for, the first that does not hold says how it is refused. -/
theorem preconditions : Obligations.Preconditions := by
  refine fun i s => ⟨fun hkey hmain hsent => ?_, fun hrx hmain => ?_, fun honly hirq => ?_, fun hbound hkind => ?_,
    fun hrx hirq hbound hphase hset => ?_⟩
  · exact exec_refused (pre := [.mainContext]) (kindReqs_of_needsKey hkey) (by simp [Req.holds, hmain]) hsent rfl
  · exact exec_refused (pre := []) (kindReqs_of_isReceive hrx) (by simp) hmain rfl
  · obtain ⟨rs, hkind⟩ := kindReqs_of_isMainOnly honly
    exact exec_refused (pre := []) hkind (by simp) (by simp [Req.holds, hirq]) rfl
  · rcases hkind with haccess | ⟨hinit, hmain⟩ | ⟨hrx, hirq⟩
    · exact exec_refused (pre := []) (kindReqs_of_isAccessor haccess) (by simp) hbound rfl
    · exact exec_refused (pre := [.mainContext]) (kindReqs_of_isInitStep hinit) (by simp [Req.holds, hmain]) hbound rfl
    · exact exec_refused (pre := [.irqContext]) (kindReqs_of_isReceive hrx) (by simp [Req.holds, hirq]) hbound rfl
  · exact exec_refused (pre := [.irqContext, .bound]) (kindReqs_of_isReceive hrx) (by simp [Req.holds, hirq, hbound])
      (by simp [Req.holds, hphase, hset]) rfl

end Sys2Proof.Machine
